-- ==== Sys2Proof/Word.lean ====
section
/-! DEFINITION. The word types of the BSC codec (spec/00_scope.md R9, R10). Every value of the block is
unsigned; a byte is eight bits, a command descriptor is thirty-two. -/

namespace Sys2Proof

/-- A byte: an unsigned integer in 0..255 (R10). -/
abbrev Byte := BitVec 8

/-- The 32-bit command descriptor (R9 `W_DESC`, R78). -/
abbrev Descriptor := BitVec 32

end Sys2Proof
end

