-- ==== Sys2Proof/Syntax.lean ====
section
/-! DEFINITION. The operations of the BSC codec, one constructor per row of spec/opcode_table.json, and the
two closed enumerations the command layer names (spec/30_encoding.md R78 to R81, R88, R89). -/

namespace Sys2Proof

/-- PictureMode (R88): the closed set, in the order of its indices 0..7. -/
inductive PictureMode where
  | vivid | standard | cinemaHome | custom | cinemaPro | sports | game | graphics
deriving DecidableEq, Repr

/-- The picture modes in index order (R88). -/
def PictureMode.all : List PictureMode :=
  [.vivid, .standard, .cinemaHome, .custom, .cinemaPro, .sports, .game, .graphics]

/-- InputMode (R89): the closed set, in the order of its indices 0..12. -/
inductive InputMode where
  | scart1 | scart2 | scart3 | component1 | component2 | component3
  | hdmi1 | hdmi2 | hdmi3 | hdmi4 | hdmi5 | pc | sharedInput
deriving DecidableEq, Repr

/-- The input modes in index order (R89). -/
def InputMode.all : List InputMode :=
  [.scart1, .scart2, .scart3, .component1, .component2, .component3,
   .hdmi1, .hdmi2, .hdmi3, .hdmi4, .hdmi5, .pc, .sharedInput]

/-- One operation as its descriptor states it (R78, R80). The operation is selected by `OP` alone, so every
constructor carries both remaining fields, `LEN` (12 bits) and `ARG` (16 bits), whatever their values: a
descriptor whose fields break R79 still selects its operation and is refused by that operation's own accept
step with an encoding error. -/
inductive Instr where
  /-- `READ f`, `OP = 1` (R125): `LEN` must be 0, `ARG` is the function number. -/
  | read (len : BitVec 12) (func : BitVec 16)
  /-- `WRITE f, p`, `OP = 2` (R126): `LEN` payload bytes from PBUF, `ARG` is the function number. -/
  | write (len : BitVec 12) (func : BitVec 16)
  /-- `GET_POWER`, `OP = 3` (R136): `LEN` and `ARG` must be 0. -/
  | getPower (len : BitVec 12) (arg : BitVec 16)
  /-- `SET_POWER b`, `OP = 4` (R138): `LEN` must be 0, `ARG` is 0 (off) or 1 (on). -/
  | setPower (len : BitVec 12) (arg : BitVec 16)
  /-- `SET_PICTURE i`, `OP = 5` (R139): `LEN` must be 0, `ARG` is a picture-mode index 0..7. -/
  | setPicture (len : BitVec 12) (arg : BitVec 16)
  /-- `GET_INPUT`, `OP = 6` (R141): `LEN` and `ARG` must be 0. -/
  | getInput (len : BitVec 12) (arg : BitVec 16)
  /-- `SET_INPUT i`, `OP = 7` (R144): `LEN` must be 0, `ARG` is an input-mode index 0..12. -/
  | setInput (len : BitVec 12) (arg : BitVec 16)
deriving DecidableEq, Repr

end Sys2Proof
end

