-- ==== Sys2Proof/Config.lean ====
section
/-! DEFINITION. What an instance of the hardware fixes (the record `Cfg` of spec/00_scope.md R8 and
spec/70_reset_and_hazards.md R183) and the free values of spec/93_implementation_defined.md Part 1. A free value
is an opaque constant: nothing in Lean can evaluate it or prove which number it is. -/

namespace Sys2Proof

/-- The configuration record (R8): the function bytes, the direct-selection sub-command byte and the two code
tables. It is a constant of the instance, not state (R183). -/
structure Cfg where
  /-- `FUNC_POWER`, "the power function byte". -/
  funcPower : Byte
  /-- `FUNC_PICTURE`, "the picture-mode function byte". -/
  funcPicture : Byte
  /-- `FUNC_INPUT`, "the input-mode function byte". -/
  funcInput : Byte
  /-- `SUBCMD_DIRECT`, the direct-selection sub-command byte. -/
  subcmdDirect : Byte
  /-- `PIC_CODE`, the wire code of each picture mode. -/
  picCode : PictureMode → Byte
  /-- `INP_CODE`, the wire code of each input mode. -/
  inpCode : InputMode → Byte

/-- R8: "explicit, bidirectional mapping", so `PIC_CODE` is injective. -/
abbrev PicLegal (pic : PictureMode → Byte) : Prop := (PictureMode.all.map pic).Nodup

/-- R8: `INP_CODE` is injective and `INP_CODE[7] = 0x42` (HDMI_2). -/
abbrev InpLegal (inp : InputMode → Byte) : Prop :=
  (InputMode.all.map inp).Nodup ∧ inp .hdmi2 = 0x42

/-- The constraints of R8 on a configuration. A record that breaks one "is not a configuration of this hardware"
(R8, U16). -/
abbrev Cfg.Legal (c : Cfg) : Prop := PicLegal c.picCode ∧ InpLegal c.inpCode

/-- The default `PIC_CODE` (R8, R88; marked general knowledge by the spec). -/
def defaultPicCode : PictureMode → Byte
  | .vivid => 0x00 | .standard => 0x01 | .cinemaHome => 0x02 | .custom => 0x03
  | .cinemaPro => 0x06 | .sports => 0x07 | .game => 0x08 | .graphics => 0x09

/-- The default `INP_CODE` (R8, R89; all but HDMI_2 marked general knowledge by the spec). -/
def defaultInpCode : InputMode → Byte
  | .scart1 => 0x21 | .scart2 => 0x22 | .scart3 => 0x23
  | .component1 => 0x31 | .component2 => 0x32 | .component3 => 0x33
  | .hdmi1 => 0x41 | .hdmi2 => 0x42 | .hdmi3 => 0x43 | .hdmi4 => 0x44 | .hdmi5 => 0x45
  | .pc => 0x51 | .sharedInput => 0x71

/-- The default configuration of R8. The machine does not use it: it serves tests of the vectors that
spec/95_test_vectors.md marks `Cfg`. -/
def Cfg.default : Cfg :=
  { funcPower := 0x00, funcPicture := 0x20, funcInput := 0x02, subcmdDirect := 0x01,
    picCode := defaultPicCode, inpCode := defaultInpCode }

/-- Free: the instance's `FUNC_POWER`. -/
opaque Config.funcPower : Byte
/-- Free: the instance's `FUNC_PICTURE`. -/
opaque Config.funcPicture : Byte
/-- Free: the instance's `FUNC_INPUT`. -/
opaque Config.funcInput : Byte
/-- Free: the instance's `SUBCMD_DIRECT`. -/
opaque Config.subcmdDirect : Byte
/-- Free: the instance's candidate for `PIC_CODE`, before R8's constraint is imposed. -/
opaque Config.rawPicCode : PictureMode → Byte
/-- Free: the instance's candidate for `INP_CODE`, before R8's constraints are imposed. -/
opaque Config.rawInpCode : InputMode → Byte

/-- The instance's configuration. It ranges over exactly the legal records of R8: a candidate table that meets
its constraint is taken as it is, and one that does not is no table of this hardware and gives way to the
default one. Nothing can be proved of it beyond `Cfg.Legal` (DESIGN CHOICE: notes/assumptions/1.md). -/
def Config.cfg : Cfg :=
  { funcPower := Config.funcPower
    funcPicture := Config.funcPicture
    funcInput := Config.funcInput
    subcmdDirect := Config.subcmdDirect
    picCode := if PicLegal Config.rawPicCode then Config.rawPicCode else defaultPicCode
    inpCode := if InpLegal Config.rawInpCode then Config.rawInpCode else defaultInpCode }

/-- The four byte buffers of the block (spec/10_state.md R29 to R32). -/
inductive Buffer where
  /-- `PBUF`, 256 bytes at host addresses `0x000` to `0x0FF` (R29). -/
  | pbuf
  /-- `RBUF`, 254 bytes at host addresses `0x100` to `0x1FD` (R32). -/
  | rbuf
  /-- `TXBUF`, 259 hidden bytes (R30). -/
  | txbuf
  /-- `HDR`, 3 hidden bytes (R31). -/
  | hdr
deriving DecidableEq, Repr

/-- Free: the byte that index `i` of a buffer holds after the `k`-th reset and before anything writes it
(R35 "unspecified (`any value`)", U7). -/
opaque Config.bufferAtReset : Buffer → (k i : Nat) → Byte

/-- Free: what the `n`-th host read of an invalid byte of RBUF returns (R32, U6: "`any value` on every host
read"). -/
opaque Config.staleRbufByte : Nat → Byte

end Sys2Proof
end

