-- ==== Sys2Proof/Machine/State.lean ====
section
/-! DEFINITION. The state of the BSC codec (spec/10_state.md R20 to R35), with the transport and the host that
drive it (spec/00_scope.md R14) held beside it as plain data: the two byte streams of the link, and the
schedule of what the host, the device and the transport do next. -/

namespace Sys2Proof.Machine

/-- Bytes by address, in the one canonical form `Memory.wf` of Machine/Ops.lean. An address that is not listed has not been written
since the last reset. -/
abbrev Memory := List Host.Cell

/-- `PHASE` (R27), the sequencer's place in the operation in flight. -/
inductive Phase where
  /-- No operation in flight. -/
  | idle
  /-- The request frame is in TXBUF and not yet handed to the transport. -/
  | tx
  /-- The request was written; the first 3 response bytes are awaited. -/
  | rxhdr
  /-- A read response's header was accepted; its segment is awaited. -/
  | rxbody
deriving DecidableEq, Repr

/-- The answer the transport gives to a call of `XportWrite` or `XportRead` (R56, R57). -/
inductive Answer where
  /-- The call succeeds. A write takes every byte. A read delivers up to `n` bytes, never more than were asked
  for or than have arrived: fewer than asked is a short read. -/
  | ok (n : Nat)
  /-- The call reports a failure. For a write, the first `n` bytes of the frame went out all the same (R56); for
  a read, `n` of the bytes that had arrived are lost (R162, "unknown"). -/
  | fail (n : Nat)
deriving DecidableEq, Repr

/-- A host access (R50), of as many consecutive bytes as it is wide, lowest address first. -/
inductive Access where
  /-- Read `n` bytes at `addr`. -/
  | read (addr : BitVec 10) (n : Nat)
  /-- Write the bytes `bytes` at `addr`; four bytes at `0x200` are the 32-bit write that issues a command. -/
  | write (addr : BitVec 10) (bytes : List Byte)
deriving DecidableEq, Repr

/-- One event of the world around the block (R14), or the sequencer's turn. -/
inductive Input where
  /-- The host makes one access. -/
  | host (access : Access)
  /-- The sequencer takes its step if it is enabled; `answer` is what the transport answers if that step calls
  it, and `none` when the transport does not answer (R189). -/
  | turn (answer : Option Answer)
  /-- The device sends bytes: they join the end of the RX stream (R57). -/
  | device (bytes : List Byte)
  /-- Something other than the block takes `n` bytes off the head of the RX stream: the host has the transport
  emptied (R188), or a second reader steals bytes (R186). -/
  | drain (n : Nat)
  /-- `rst` rises (R180, R181); if that cuts an `XportWrite` short, `sent` bytes of the frame went out. -/
  | resetOn (sent : Nat)
  /-- `rst` falls. -/
  | resetOff
deriving DecidableEq, Repr

/-- The machine: the block's registers, flags, sequencer latches and buffers, its reset pin, the environment it
depends on, and the model's own bookkeeping of free values. -/
structure State where
  /-- `CMD`, the last accepted descriptor (R21). -/
  cmd : BitVec 32
  /-- `STATUS` (R22). -/
  status : Byte
  /-- `INFO` (R23). -/
  info : Byte
  /-- `RESULT` (R24). -/
  result : Byte
  /-- `RLEN` (R25). -/
  rlen : Byte
  /-- `FLAGS.DONE` (R26). -/
  done : Bool
  /-- `FLAGS.CMD_OVR` (R26). -/
  cmdOvr : Bool
  /-- `PHASE` (R27); `FLAGS.BUSY` is read off it (R26). -/
  phase : Phase
  /-- `OPL`, the operation latch (R28). -/
  opl : BitVec 4
  /-- `TXLEN` (R30). -/
  txlen : BitVec 9
  /-- `PBUF` and `RBUF` at their host addresses (R29, R32, R50). -/
  mem : Memory
  /-- `TXBUF`, by index (R30). -/
  txbuf : Memory
  /-- `HDR`, by index (R31). -/
  hdr : Memory
  /-- The level of the reset input `rst` (R180). -/
  rst : Bool
  /-- Environment: every byte the device has been sent, oldest first (R52). -/
  txStream : List Byte
  /-- Environment: the bytes the device has sent that nothing has consumed, oldest first (R52, R187). -/
  rxStream : List Byte
  /-- Environment: the transport's answer on offer to the call the sequencer makes in this step. -/
  answer : Option Answer
  /-- Environment: what happens next, in order. -/
  inputs : List Input
  /-- What the last host read returned, lowest address first. -/
  rdata : List Byte
  /-- Model: how many resets there have been; it selects the unspecified contents of the buffers. -/
  resets : Nat
  /-- Model: how many invalid RBUF bytes the host has read; it selects the next free value. -/
  freeReads : Nat
deriving DecidableEq, Repr

/-- The reasons the machine can stop with a fault. The spec names none, since each of its errors ends an operation and
not the machine: these two stand for states that no run reaches and to which no rule gives a step. -/
inductive Fault where
  /-- Raised by the sequencer's turn when `PHASE ≠ IDLE` and `OPL` is no operation code. Safe: R28 rules the state
  out (`Safety.BlockInv.busy_opl`). -/
  | noOperation
  /-- Raised by a write-type operation in phase RXBODY, which R123 gives to read-type operations only. Safe: R122
  never takes a write-type operation there (`Safety.BlockInv.body_readType`). -/
  | noBodyStep
deriving DecidableEq, Repr

/-- The reasons the machine can refuse to give a meaning. -/
inductive Refusal where
  /-- An arm of `exec` whose instruction has no meaning yet. No arm raises it. Safe. -/
  | notModelled (mnemonic : String)
  /-- Raised by a host access of a width other than one byte that touches one of the byte registers at `0x204` to
  `0x208` or reaches past the address space: "a matter of `HOST_BUS`" which "the model may `refuse`" (U15). Safe. -/
  | wideAccess (addr n : Nat)
deriving DecidableEq, Repr

/-- The machine right after reset (R35). Registers, flags, `PHASE`, `OPL` and `TXLEN` have the table's values; the four
buffers list nothing, so every byte of them is the free value of R35's "unspecified". The environment starts
with nothing sent, nothing arrived and nothing scheduled (R182). -/
def State.reset : State :=
  { cmd := 0, status := 0, info := 0, result := 0, rlen := 0, done := false, cmdOvr := false
    phase := .idle, opl := 0, txlen := 0, mem := [], txbuf := [], hdr := []
    rst := false, txStream := [], rxStream := [], answer := none, inputs := []
    rdata := [], resets := 0, freeReads := 0 }

end Sys2Proof.Machine
end

