-- ==== Sys2Proof/Machine/Flags.lean ====
section
/-! DEFINITION. The flags (spec/10_state.md R26) and the interrupt line (spec/60_exceptions.md R165). There are no
arithmetic condition codes. -/

namespace Sys2Proof.Machine

/-- `FLAGS.BUSY`: equals `PHASE ≠ IDLE` and is no storage of its own (R26). -/
def State.busy (s : State) : Bool := decide (s.phase ≠ .idle)

/-- The byte a host read of `FLAGS` returns: `BUSY`, `DONE`, `CMD_OVR` in bits 0, 1, 2; bits 7:3 read as 0
(R26). -/
def State.flags (s : State) : Byte :=
  (0 : BitVec 5) ++ BitVec.ofBool s.cmdOvr ++ BitVec.ofBool s.done ++ BitVec.ofBool s.busy

/-- A host write of `w` to `FLAGS`: bits 1 and 2 clear what they are set for, every other bit is ignored
(R26). -/
def State.clearFlags (w : Byte) (s : State) : State :=
  { s with done := s.done && !w.getLsbD 1, cmdOvr := s.cmdOvr && !w.getLsbD 2 }

/-- `FLAGS.CMD_OVR <- 1`: a descriptor was dropped (R21). -/
def State.setOverrun (s : State) : State := { s with cmdOvr := true }

/-- The interrupt output: a level equal to `FLAGS.DONE` (R165). -/
def State.irq (s : State) : Bool := s.done

end Sys2Proof.Machine
end

