-- ==== Sys2Proof/WellFormed.lean ====
section
/-! DEFINITION. Which descriptors are legal (spec/30_encoding.md R79, the `legal_when` column of
spec/opcode_table.json). An operation that is not well formed is still an operation: it decodes, and its accept
step ends it with an encoding error (R120). -/

namespace Sys2Proof

/-- R79's "legal when" column, with the size and range conditions of READ and WRITE included. -/
def Instr.wellFormed : Instr → Bool
  | .read len func => decide (len = 0) && decide (func.toNat ≤ 255)
  | .write len func => decide (func.toNat ≤ 255) && decide (len.toNat ≤ 254)
  | .getPower len arg => decide (len = 0) && decide (arg = 0)
  | .setPower len arg => decide (len = 0) && decide (arg.toNat ≤ 1)
  | .setPicture len arg => decide (len = 0) && decide (arg.toNat ≤ 7)
  | .getInput len arg => decide (len = 0) && decide (arg = 0)
  | .setInput len arg => decide (len = 0) && decide (arg.toNat ≤ 12)

/-- A descriptor whose accept step finds nothing to refuse. -/
abbrev Instr.WellFormed (i : Instr) : Prop := i.wellFormed = true

end Sys2Proof
end

