-- ==== Sys2Proof/Decode.lean ====
section
/-! DEFINITION. The descriptor's fields, the decoder and the encoder (spec/30_encoding.md R78 to R81; byte order
of spec/20_memory.md R54). Decoding is total on byte sequences and rejects by name. -/

namespace Sys2Proof

/-- `OP`, bits `[31:28]` (R78). -/
def opField (d : Descriptor) : BitVec 4 := d.extractLsb' 28 4

/-- `LEN`, bits `[27:16]` (R78). -/
def lenField (d : Descriptor) : BitVec 12 := d.extractLsb' 16 12

/-- `ARG`, bits `[15:0]` (R78). -/
def argField (d : Descriptor) : BitVec 16 := d.extractLsb' 0 16

/-- The descriptor word `(OP << 28) | (LEN << 16) | ARG` (R90). -/
def packDescriptor (op : BitVec 4) (len : BitVec 12) (arg : BitVec 16) : Descriptor :=
  op ++ len ++ arg

/-- The four bytes of a descriptor in host address order: `0x200` holds bits `[7:0]` (R54). -/
def littleEndian (d : Descriptor) : List Byte :=
  [d.extractLsb' 0 8, d.extractLsb' 8 8, d.extractLsb' 16 8, d.extractLsb' 24 8]

/-- The descriptor that four bytes in host address order spell (R54). -/
def ofLittleEndian (b0 b1 b2 b3 : Byte) : Descriptor := b3 ++ b2 ++ b1 ++ b0

/-- Why a byte sequence is no operation. -/
inductive DecodeError where
  /-- `OP` is `0x0` or `0x8`..`0xF`, reserved (R81). -/
  | reservedOp (op : BitVec 4)
  /-- A descriptor is exactly four bytes (R54); `n` were given. -/
  | notFourBytes (n : Nat)
deriving DecidableEq, Repr

/-- The operation code map (R80), over the three fields of a descriptor. -/
def decodeFields (op : BitVec 4) (len : BitVec 12) (arg : BitVec 16) : Except DecodeError Instr :=
  match op.toNat with
  | 1 => .ok (.read len arg)
  | 2 => .ok (.write len arg)
  | 3 => .ok (.getPower len arg)
  | 4 => .ok (.setPower len arg)
  | 5 => .ok (.setPicture len arg)
  | 6 => .ok (.getInput len arg)
  | 7 => .ok (.setInput len arg)
  | _ => .error (.reservedOp op)

/-- The operation a descriptor word selects. -/
def decodeWord (d : Descriptor) : Except DecodeError Instr :=
  decodeFields (opField d) (lenField d) (argField d)

/-- The decoder: a byte sequence as the host lays it at `0x200`, lowest address first. -/
def decode : List Byte → Except DecodeError Instr
  | [b0, b1, b2, b3] => decodeWord (ofLittleEndian b0 b1 b2 b3)
  | bs => .error (.notFourBytes bs.length)

/-- The operation code of each operation (R80). -/
def opCode : Instr → BitVec 4
  | .read _ _ => 1
  | .write _ _ => 2
  | .getPower _ _ => 3
  | .setPower _ _ => 4
  | .setPicture _ _ => 5
  | .getInput _ _ => 6
  | .setInput _ _ => 7

/-- The descriptor of an operation: its row of R90's table, with both fields as they stand. -/
def descriptor : Instr → Descriptor
  | .read len func => packDescriptor 1 len func
  | .write len func => packDescriptor 2 len func
  | .getPower len arg => packDescriptor 3 len arg
  | .setPower len arg => packDescriptor 4 len arg
  | .setPicture len arg => packDescriptor 5 len arg
  | .getInput len arg => packDescriptor 6 len arg
  | .setInput len arg => packDescriptor 7 len arg

/-- The encoder: the bytes the host writes at `0x200` to `0x203` to request an operation. -/
def encode (i : Instr) : List Byte := littleEndian (descriptor i)

/-- The operation the decoder reads from a row of spec/opcode_table.json whose bits are `w`. Every row is one
32-bit word, laid out in the byte order of R54; bits at and above `nbits` are 0, and a wider row is none of
this hardware's. -/
def decodeTableWord (nbits w : Nat) : Option Instr :=
  if nbits ≤ 32 then
    match decode (littleEndian (BitVec.ofNat 32 (w % 2 ^ nbits))) with
    | .ok i => some i
    | .error _ => none
  else none

end Sys2Proof
end

