-- ==== Sys2Proof/Machine/FrameCodec.lean ====
section
/-! DEFINITION. The Frame Codec (spec/40_frame_codec.md R100 to R109): the checksum, the two frame builders and the
three parsers, as pure functions, with the wire constants (spec/00_scope.md R7) and the status codes
(spec/30_encoding.md R84). -/

namespace Sys2Proof.Machine

/-- The 18 errors of R84 (spec/60_exceptions.md R150 to R156). -/
inductive Error where
  | encRange | encSize | encIllegalOp | encIllegalArg
  | xportWriteFail | xportReadFail
  | frameHeader | frameLength | frameLengthZero
  | checksum
  | devLimitOver | devLimitUnder | devCanceled | devParse | devUnrecognized
  | decPowerValue | decInputCode | decPayloadLen
deriving DecidableEq, Repr

/-- The status code of an error (R84): the class in bits `[7:4]`, the sub-code in bits `[3:0]`. -/
def Error.code : Error → Byte
  | .encRange => 0x11
  | .encSize => 0x12
  | .encIllegalOp => 0x13
  | .encIllegalArg => 0x14
  | .xportWriteFail => 0x21
  | .xportReadFail => 0x22
  | .frameHeader => 0x31
  | .frameLength => 0x32
  | .frameLengthZero => 0x33
  | .checksum => 0x40
  | .devLimitOver => 0x51
  | .devLimitUnder => 0x52
  | .devCanceled => 0x53
  | .devParse => 0x54
  | .devUnrecognized => 0x5F
  | .decPowerValue => 0x61
  | .decInputCode => 0x62
  | .decPayloadLen => 0x63

/-- What `raise E(info)` carries (R12): the error and the byte for `INFO`. -/
structure Raise where
  err : Error
  info : Byte
deriving DecidableEq, Repr

/-- `HDR_READ` (R7). -/
def hdrRead : Byte := 0x83
/-- `HDR_WRITE` (R7). -/
def hdrWrite : Byte := 0x8C
/-- `HDR_RESP` (R7). -/
def hdrResp : Byte := 0x70
/-- `CATEGORY` (R7). -/
def category : Byte := 0x00
/-- `FILLER` (R7). -/
def filler : Byte := 0xFF

/-- `CHECKSUM(s)` (R100): the exact sum of the bytes, reduced mod 256. The one definition for both directions
(R101). -/
def checksum (s : List Byte) : Byte := BitVec.ofNat 8 (s.map BitVec.toNat).sum

/-- A byte sequence closed by its checksum (R70). -/
def sealFrame (body : List Byte) : List Byte := body ++ [checksum body]

/-- The frame of `BUILD_READ` for a function byte (R71, R103). -/
def readFrame (f : Byte) : List Byte := sealFrame [hdrRead, category, f, filler, filler]

/-- The frame of `BUILD_WRITE` for a function byte (R72, R104); the length field counts the payload and the
checksum (R76). -/
def writeFrame (f : Byte) (p : List Byte) : List Byte :=
  sealFrame ([hdrWrite, category, f, BitVec.ofNat 8 (p.length + 1)] ++ p)

/-- `BUILD_READ(f)` (R103) on the 16-bit function number. -/
def buildRead (f : BitVec 16) : Except Raise (List Byte) :=
  if 255 < f.toNat then .error ⟨.encRange, 0x00⟩ else .ok (readFrame (f.setWidth 8))

/-- `BUILD_WRITE(f, p)` (R104): the function number is tested before the size. -/
def buildWrite (f : BitVec 16) (p : List Byte) : Except Raise (List Byte) :=
  if 255 < f.toNat then .error ⟨.encRange, 0x00⟩
  else if 255 < p.length + 1 then .error ⟨.encSize, 0x00⟩
  else .ok (writeFrame (f.setWidth 8) p)

/-- `ANSWER(a)` (R83, R105): `INFO` receives the raw answer byte in every error case. -/
def answerCheck (a : Byte) : Except Raise Unit :=
  if a = 0x00 then .ok ()
  else if a = 0x01 then .error ⟨.devLimitOver, a⟩
  else if a = 0x02 then .error ⟨.devLimitUnder, a⟩
  else if a = 0x03 then .error ⟨.devCanceled, a⟩
  else if a = 0x04 then .error ⟨.devParse, a⟩
  else .error ⟨.devUnrecognized, a⟩

/-- `PARSE_READ_HDR(h)` (R106): length, header byte, answer, in that order; the declared length is returned and
no checksum is looked at. -/
def parseReadHdr (h : List Byte) : Except Raise Byte :=
  match h with
  | [h0, h1, h2] =>
    if h0 ≠ hdrResp then .error ⟨.frameHeader, h0⟩
    else match answerCheck h1 with
      | .error r => .error r
      | .ok _ => .ok h2
  | _ => .error ⟨.frameLength, BitVec.ofNat 8 h.length⟩

/-- `PARSE_READ_BODY(h, seg)` (R107): length, then the checksum over the header and the payload. -/
def parseReadBody (h seg : List Byte) : Except Raise (List Byte) :=
  let len := (h.getD 2 0).toNat
  let payload := seg.take (len - 1)
  let received := seg.getD (len - 1) 0
  if seg.length ≠ len then .error ⟨.frameLength, BitVec.ofNat 8 seg.length⟩
  else if checksum (h ++ payload) ≠ received then .error ⟨.checksum, received⟩
  else .ok payload

/-- `PARSE_ACK(a)` (R108): length, header byte, checksum, answer, in that order (R109 keeps the order apart from
that of `parseReadHdr`). -/
def parseAck (a : List Byte) : Except Raise Unit :=
  match a with
  | [a0, a1, a2] =>
    if a0 ≠ hdrResp then .error ⟨.frameHeader, a0⟩
    else if checksum [a0, a1] ≠ a2 then .error ⟨.checksum, a2⟩
    else answerCheck a1
  | _ => .error ⟨.frameLength, BitVec.ofNat 8 a.length⟩

end Sys2Proof.Machine
end

