-- ==== Sys2Proof/Machine/Operands.lean ====
section
/-! DEFINITION. The operand forms of the operations: the legality of a descriptor's fields at accept
(`LEGAL`, spec/41_exchange_ops.md R120, spec/30_encoding.md R79), the enumeration indices (R88, R89), the payload
encodings and decodings of the command layer (R85 to R87) and the request frame of each operation (R125, R126,
spec/42_command_ops.md R136 to R144). -/

namespace Sys2Proof.Machine

/-- The picture mode of an index (R88), if it is one. -/
def pictureOfIndex (i : Nat) : Option PictureMode := PictureMode.all[i]?

/-- The input mode of an index (R89), if it is one. -/
def inputOfIndex (i : Nat) : Option InputMode := InputMode.all[i]?

/-- The index of an input mode (R89), as GET_INPUT reports it. -/
def inputIndex (m : InputMode) : Nat := InputMode.all.idxOf m

/-- The input mode whose code is `c`, if there is one (R89, R142): a closed table, no default. -/
def inputOfCode (cfg : Cfg) (c : Byte) : Option InputMode :=
  InputMode.all.find? (fun m => cfg.inpCode m == c)

/-- The two payload bytes of an input code on transmit (R87): one nibble in the low half of each. -/
def inputPayload (c : Byte) : List Byte := [(c >>> 4) &&& 0x0F, c &&& 0x0F]

/-- The input code of two received payload bytes (R87): the high nibbles are ignored. -/
def inputCodeOf (b0 b1 : Byte) : Byte := ((b0 &&& 0x0F) <<< 4) ||| (b1 &&& 0x0F)

/-- The refusal of an illegal field at accept (R79, R120). -/
def illegalArg : Except Raise (List Byte) := .error ⟨.encIllegalArg, 0x00⟩

/-- LEGAL and REQUEST of READ (R120, R125). -/
def requestRead (len : BitVec 12) (func : BitVec 16) : Except Raise (List Byte) :=
  if len = 0 then buildRead func else illegalArg

/-- LEGAL and REQUEST of WRITE (R120, R126): both tests are made on the descriptor before PBUF is looked at, and
`pbuf n` is the first `n` bytes of PBUF. -/
def requestWrite (len : BitVec 12) (func : BitVec 16) (pbuf : Nat → List Byte) :
    Except Raise (List Byte) :=
  if 255 < func.toNat then .error ⟨.encRange, 0x00⟩
  else if 254 < len.toNat then .error ⟨.encSize, 0x00⟩
  else buildWrite func (pbuf len.toNat)

/-- LEGAL and REQUEST of GET_POWER (R120, R136). The function byte is a byte of `Cfg`, so BUILD_READ cannot
raise (R135). -/
def requestGetPower (cfg : Cfg) (len : BitVec 12) (arg : BitVec 16) : Except Raise (List Byte) :=
  if len = 0 ∧ arg = 0 then .ok (readFrame cfg.funcPower) else illegalArg

/-- LEGAL and REQUEST of SET_POWER (R120, R138). -/
def requestSetPower (cfg : Cfg) (len : BitVec 12) (arg : BitVec 16) : Except Raise (List Byte) :=
  if len = 0 ∧ arg.toNat ≤ 1 then .ok (writeFrame cfg.funcPower [arg.setWidth 8]) else illegalArg

/-- LEGAL and REQUEST of SET_PICTURE (R120, R139). -/
def requestSetPicture (cfg : Cfg) (len : BitVec 12) (arg : BitVec 16) : Except Raise (List Byte) :=
  if len = 0 then
    match pictureOfIndex arg.toNat with
    | some m => .ok (writeFrame cfg.funcPicture [cfg.subcmdDirect, cfg.picCode m])
    | none => illegalArg
  else illegalArg

/-- LEGAL and REQUEST of GET_INPUT (R120, R141). -/
def requestGetInput (cfg : Cfg) (len : BitVec 12) (arg : BitVec 16) : Except Raise (List Byte) :=
  if len = 0 ∧ arg = 0 then .ok (readFrame cfg.funcInput) else illegalArg

/-- LEGAL and REQUEST of SET_INPUT (R120, R144). -/
def requestSetInput (cfg : Cfg) (len : BitVec 12) (arg : BitVec 16) : Except Raise (List Byte) :=
  if len = 0 then
    match inputOfIndex arg.toNat with
    | some m => .ok (writeFrame cfg.funcInput (inputPayload (cfg.inpCode m)))
    | none => illegalArg
  else illegalArg

/-- The value of `DECODE(GET_POWER, p)` (R85, R137): the byte for `RESULT`. -/
def powerOf (p : List Byte) : Except Raise Byte :=
  match p with
  | [b] =>
    if b = 0x00 then .ok 0x00
    else if b = 0x01 then .ok 0x01
    else .error ⟨.decPowerValue, b⟩
  | _ => .error ⟨.decPayloadLen, BitVec.ofNat 8 p.length⟩

/-- The value of `DECODE(GET_INPUT, p)` (R87, R142): the index for `RESULT` and the code for `INFO`. -/
def inputOf (cfg : Cfg) (p : List Byte) : Except Raise (Byte × Byte) :=
  match p with
  | [b0, b1] =>
    match inputOfCode cfg (inputCodeOf b0 b1) with
    | some m => .ok (BitVec.ofNat 8 (inputIndex m), inputCodeOf b0 b1)
    | none => .error ⟨.decInputCode, inputCodeOf b0 b1⟩
  | _ => .error ⟨.decPayloadLen, BitVec.ofNat 8 p.length⟩

end Sys2Proof.Machine
end

