-- ==== Sys2Proof/Machine/Ops.lean ====
section
/-! DEFINITION. The shared operations of the machine: the byte memory, the four buffers, the two transport
primitives (spec/20_memory.md R56, R57), error entry (spec/60_exceptions.md R160), and the steps every
operation runs through (spec/41_exchange_ops.md R120 to R124). -/

namespace Sys2Proof.Machine

/-! ### Memory -/

/-- The canonical form: addresses strictly rising. An unlisted address reads as no value, so no entry can equal
what an unlisted address reads as. -/
abbrev Memory.wf (m : Memory) : Prop := m.Pairwise (fun x y => x.1 < y.1)

/-- The byte written at an address, if one was since the last reset. -/
def Memory.read : Memory → Nat → Option Byte
  | [], _ => none
  | (b, w) :: m, a => if a = b then some w else Memory.read m a

/-- Write one byte, keeping the canonical form. -/
def Memory.write : Memory → Nat → Byte → Memory
  | [], a, v => [(a, v)]
  | (b, w) :: m, a, v =>
    if a < b then (a, v) :: (b, w) :: m
    else if a = b then (a, v) :: m
    else (b, w) :: Memory.write m a v

/-- Write a byte sequence at `a`, lowest address first (`MemWrite`, R12). -/
def Memory.writeBytes : Memory → Nat → List Byte → Memory
  | m, _, [] => m
  | m, a, v :: vs => Memory.writeBytes (Memory.write m a v) (a + 1) vs

/-! ### Buffers -/

/-- Byte `i` of a buffer (R29 to R32). A byte that nothing has written since the last reset is the free value of
R35's "unspecified". -/
def State.byteAt (b : Buffer) (i : Nat) (s : State) : Byte :=
  match b with
  | .pbuf => (Memory.read s.mem i).getD (Config.bufferAtReset .pbuf s.resets i)
  | .rbuf => (Memory.read s.mem (0x100 + i)).getD (Config.bufferAtReset .rbuf s.resets i)
  | .txbuf => (Memory.read s.txbuf i).getD (Config.bufferAtReset .txbuf s.resets i)
  | .hdr => (Memory.read s.hdr i).getD (Config.bufferAtReset .hdr s.resets i)

/-- The first `n` bytes of a buffer (`MemRead`, R12). -/
def State.load (b : Buffer) (n : Nat) (s : State) : List Byte :=
  (List.range n).map (fun i => s.byteAt b i)

/-- Write a byte sequence into a buffer from index `i` (`MemWrite`, R12). -/
def State.store (b : Buffer) (i : Nat) (bs : List Byte) (s : State) : State :=
  match b with
  | .pbuf => { s with mem := Memory.writeBytes s.mem i bs }
  | .rbuf => { s with mem := Memory.writeBytes s.mem (0x100 + i) bs }
  | .txbuf => { s with txbuf := Memory.writeBytes s.txbuf i bs }
  | .hdr => { s with hdr := Memory.writeBytes s.hdr i bs }

/-- `TXBUF[0 : TXLEN]`, the request frame (R30, R121). -/
def State.txFrame (s : State) : List Byte := s.load .txbuf s.txlen.toNat

/-- `HDR[0..2]`, the response header latched by the RXHDR step (R31). -/
def State.header (s : State) : List Byte := s.load .hdr 3

/-! ### The transport primitives -/

/-- What a call of a transport primitive comes to. -/
inductive Reply (α : Type) where
  /-- The transport has not answered (R189). -/
  | pending
  /-- The transport answers `fail`. -/
  | failed (s : State)
  /-- The transport answers with a result. -/
  | done (a : α) (s : State)

/-- The transport has taken its answer back and `bs` has gone out on the TX stream (R56). -/
def State.sendBytes (bs : List Byte) (s : State) : State :=
  { s with answer := none, txStream := s.txStream ++ bs }

/-- The transport has taken its answer back and `n` bytes are off the head of the RX stream (R57). -/
def State.consume (n : Nat) (s : State) : State :=
  { s with answer := none, rxStream := s.rxStream.drop n }

/-- The transport has an answer on offer, or none, for the call of this step. -/
def State.offer (answer : Option Answer) (s : State) : State := { s with answer := answer }

/-- `XportWrite(bs)` (R56). After `fail` the part of `bs` that the answer names has gone out all the same. -/
def xportWrite (bs : List Byte) (s : State) : Reply Unit :=
  match s.answer with
  | none => .pending
  | some (.ok _) => .done () (s.sendBytes bs)
  | some (.fail k) => .failed (s.sendBytes (bs.take k))

/-- `XportRead(n)` (R57): the next bytes of the RX stream, in order and consumed, at most `n` of them; what is not
returned stays and heads the next answer. -/
def xportRead (n : Nat) (s : State) : Reply (List Byte) :=
  match s.answer with
  | none => .pending
  | some (.ok k) => .done (s.rxStream.take (min n k)) (s.consume (min n k))
  | some (.fail k) => .failed (s.consume (min n k))

/-- A step that makes no transport call leaves the answer on offer untaken; the offer lapses with the step. -/
def State.withdrawAnswer (s : State) : State := { s with answer := none }

/-! ### Error entry, and the two other ends of the life of an operation -/

/-- Error entry, `raise E(info)` (R160): the whole of it. No vector, no handler, no saved state; the block is idle
and as ready as after a success (R163). -/
def State.enterError (r : Raise) (s : State) : State :=
  { s with status := r.err.code, info := r.info, done := true, phase := .idle }

/-- `COMPLETE_OK` (R124). -/
def State.completeOk (s : State) : State := { s with status := 0x00, done := true, phase := .idle }

/-- The opening assignments of the accept step (R120). This is also all there is of a return from an error: the next accepted
descriptor clears the outcome of the last one (R163). -/
def State.beginOp (d : Descriptor) (s : State) : State :=
  { s with cmd := d, done := false, status := 0x00, info := 0x00, result := 0x00, rlen := 0x00 }

/-- The closing assignments of the accept step (R120): the frame into TXBUF, the operation into OPL, PHASE to TX. -/
def State.launch (op : BitVec 4) (frame : List Byte) (s : State) : State :=
  { s.store .txbuf 0 frame with txlen := BitVec.ofNat 9 frame.length, opl := op, phase := .tx }

/-- `PHASE <- RXHDR` (R121). -/
def State.awaitHeader (s : State) : State := { s with phase := .rxhdr }

/-- `RESULT <- v` (R137). -/
def State.setResult (v : Byte) (s : State) : State := { s with result := v }

/-- `RESULT <- v ; INFO <- w` (R142). -/
def State.setResultInfo (v w : Byte) (s : State) : State := { s with result := v, info := w }

/-- `RBUF[0 : len(p)] <- p ; RLEN <- len(p)` (R123). -/
def State.storePayload (p : List Byte) (s : State) : State :=
  { s.store .rbuf 0 p with rlen := BitVec.ofNat 8 p.length }

/-- `HDR <- r ; PHASE <- RXBODY` (R122). -/
def State.latchHeader (r : List Byte) (s : State) : State :=
  { s.store .hdr 0 r with phase := .rxbody }

/-! ### The steps of an operation -/

/-- The accept step (R120) for a descriptor whose legality tests and request frame are `request`. -/
def accept (d : Descriptor) (request : Except Raise (List Byte)) (s : State) : State :=
  match request with
  | .error r => (s.beginOp d).enterError r
  | .ok frame => (s.beginOp d).launch (opField d) frame

/-- The TX step (R121). -/
def txStep (s : State) : State :=
  match xportWrite s.txFrame s with
  | .pending => s
  | .failed s' => s'.enterError ⟨.xportWriteFail, 0x00⟩
  | .done _ s' => s'.awaitHeader

/-- The RXHDR step of a read-type operation (R122). -/
def rxHeaderStep (s : State) : State :=
  match xportRead 3 s with
  | .pending => s
  | .failed s' => s'.enterError ⟨.xportReadFail, 0x00⟩
  | .done r s' =>
    match parseReadHdr r with
    | .error e => s'.enterError e
    | .ok _ => s'.latchHeader r

/-- The RXHDR step of a write-type operation (R122). -/
def rxAckStep (s : State) : State :=
  match xportRead 3 s with
  | .pending => s
  | .failed s' => s'.enterError ⟨.xportReadFail, 0x00⟩
  | .done r s' =>
    match parseAck r with
    | .error e => s'.enterError e
    | .ok _ => s'.completeOk

/-- The RXBODY step (R123); `decodePayload` is `DECODE(OPL, p)`. A declared length of 0 is refused without a transport
call. RBUF and RLEN are written before DECODE, so they stand even if it raises. -/
def rxBodyStep (decodePayload : List Byte → State → Except Raise State) (s : State) : State :=
  if s.byteAt .hdr 2 = 0x00 then s.withdrawAnswer.enterError ⟨.frameLengthZero, 0x00⟩
  else
    match xportRead (s.byteAt .hdr 2).toNat s with
    | .pending => s
    | .failed s' => s'.enterError ⟨.xportReadFail, 0x00⟩
    | .done r s' =>
      match parseReadBody s'.header r with
      | .error e => s'.enterError e
      | .ok p =>
        match decodePayload p (s'.storePayload p) with
        | .error e => (s'.storePayload p).enterError e
        | .ok s'' => s''.completeOk

/-- One step of a read-type operation, by phase (R27, R127). -/
def readTypeStep (d : Descriptor) (request : Except Raise (List Byte))
    (decodePayload : List Byte → State → Except Raise State) (s : State) :
    Host.Outcome State Fault Refusal :=
  match s.phase with
  | .idle => .next (accept d request s)
  | .tx => .next (txStep s)
  | .rxhdr => .next (rxHeaderStep s)
  | .rxbody => .next (rxBodyStep decodePayload s)

/-- One step of a write-type operation, by phase (R27, R127): it has no RXBODY step (R123). -/
def writeTypeStep (d : Descriptor) (request : Except Raise (List Byte)) (s : State) :
    Host.Outcome State Fault Refusal :=
  match s.phase with
  | .idle => .next (accept d request s)
  | .tx => .next (txStep s)
  | .rxhdr => .next (rxAckStep s)
  | .rxbody => .fault .noBodyStep

/-! ### Reset -/

/-- The block's state under reset (R35): the registers, flags, latches and lengths of the table, and four buffers
whose contents are unspecified anew. The link and everything else outside the block keep what they have (R181). -/
def State.resetBlock (s : State) : State :=
  { s with
    cmd := 0, status := 0, info := 0, result := 0, rlen := 0, done := false, cmdOvr := false
    phase := .idle, opl := 0, txlen := 0, mem := [], txbuf := [], hdr := []
    answer := none, resets := s.resets + 1 }

/-- `rst` rises (R180, R181). An exchange in flight is abandoned without completing; an `XportWrite` that it cuts short
has sent `sent` bytes of the frame. -/
def State.assertReset (sent : Nat) (s : State) : State :=
  { s.resetBlock with
    rst := true
    txStream := if s.phase = .tx then s.txStream ++ s.txFrame.take sent else s.txStream }

/-- `rst` falls (R180). -/
def State.releaseReset (s : State) : State := { s with rst := false }

end Sys2Proof.Machine
end

