-- ==== Sys2Proof/Machine/Command.lean ====
section
/-! DEFINITION. The five operations of the Device Command Layer (spec/42_command_ops.md R135 to R144), each its next
atomic step in whichever phase the block is. There is no GET_PICTURE (R140) and the layer keeps no state (R145). -/

namespace Sys2Proof.Machine

/-- `DECODE(GET_POWER, p)` (R137) on the state the RXBODY step has reached. -/
def decodePower (p : List Byte) (s : State) : Except Raise State :=
  match powerOf p with
  | .error r => .error r
  | .ok v => .ok (s.setResult v)

/-- `DECODE(GET_INPUT, p)` (R142) on the state the RXBODY step has reached. -/
def decodeInput (cfg : Cfg) (p : List Byte) (s : State) : Except Raise State :=
  match inputOf cfg p with
  | .error r => .error r
  | .ok v => .ok (s.setResultInfo v.1 v.2)

/-- `GET_POWER` (R136, R137). -/
def execGetPower (len : BitVec 12) (arg : BitVec 16) (s : State) :
    Host.Outcome State Fault Refusal :=
  readTypeStep (descriptor (.getPower len arg)) (requestGetPower Config.cfg len arg) decodePower s

/-- `SET_POWER b` (R138). -/
def execSetPower (len : BitVec 12) (arg : BitVec 16) (s : State) :
    Host.Outcome State Fault Refusal :=
  writeTypeStep (descriptor (.setPower len arg)) (requestSetPower Config.cfg len arg) s

/-- `SET_PICTURE i` (R139). -/
def execSetPicture (len : BitVec 12) (arg : BitVec 16) (s : State) :
    Host.Outcome State Fault Refusal :=
  writeTypeStep (descriptor (.setPicture len arg)) (requestSetPicture Config.cfg len arg) s

/-- `GET_INPUT` (R141, R142). -/
def execGetInput (len : BitVec 12) (arg : BitVec 16) (s : State) :
    Host.Outcome State Fault Refusal :=
  readTypeStep (descriptor (.getInput len arg)) (requestGetInput Config.cfg len arg)
    (decodeInput Config.cfg) s

/-- `SET_INPUT i` (R144). -/
def execSetInput (len : BitVec 12) (arg : BitVec 16) (s : State) :
    Host.Outcome State Fault Refusal :=
  writeTypeStep (descriptor (.setInput len arg)) (requestSetInput Config.cfg len arg) s

end Sys2Proof.Machine
end

