-- ==== Sys2Proof/Machine/Exchange.lean ====
section
/-! DEFINITION. The two operations of the Frame Codec layer, READ and WRITE (spec/41_exchange_ops.md R125, R126).
The meaning of an operation is its next atomic step, in whichever phase the block is: accept (with the host's `CMD`
write), TX, RXHDR, RXBODY. -/

namespace Sys2Proof.Machine

/-- `READ f` (R125). `DECODE(READ, p)` does nothing. -/
def execRead (len : BitVec 12) (func : BitVec 16) (s : State) : Host.Outcome State Fault Refusal :=
  readTypeStep (descriptor (.read len func)) (requestRead len func) (fun _ t => .ok t) s

/-- `WRITE f, p` (R126): the payload is `PBUF[0 .. LEN-1]` as it stands at the accept step. -/
def execWrite (len : BitVec 12) (func : BitVec 16) (s : State) : Host.Outcome State Fault Refusal :=
  writeTypeStep (descriptor (.write len func)) (requestWrite len func (fun n => s.load .pbuf n)) s

end Sys2Proof.Machine
end

