-- ==== Sys2Proof/Machine/Dispatch.lean ====
section
/-! DEFINITION. The dispatch: one arm per operation, each one direct call of its meaning. -/

namespace Sys2Proof.Machine

def exec (i : Instr) (s : State) : Host.Outcome State Fault Refusal :=
  match i with
  | .read len func => Sys2Proof.Machine.execRead len func s
  | .write len func => Sys2Proof.Machine.execWrite len func s
  | .getPower len arg => Sys2Proof.Machine.execGetPower len arg s
  | .setPower len arg => Sys2Proof.Machine.execSetPower len arg s
  | .setPicture len arg => Sys2Proof.Machine.execSetPicture len arg s
  | .getInput len arg => Sys2Proof.Machine.execGetInput len arg s
  | .setInput len arg => Sys2Proof.Machine.execSetInput len arg s

end Sys2Proof.Machine
end

