-- ==== Sys2Proof/Machine/HostPort.lean ====
section
/-! DEFINITION. The host port: the address map and what a host access other than the command write does
(spec/20_memory.md R50, R51, R54, R55; spec/10_state.md R20, R29, R32). -/

namespace Sys2Proof.Machine

/-- What lies at a host address (R50). -/
inductive Region where
  /-- Byte `i` of PBUF. -/
  | pbuf (i : Nat)
  /-- Byte `i` of RBUF. -/
  | rbuf (i : Nat)
  /-- Byte `k` of `CMD`, `k = 0` the least significant (R54). -/
  | cmd (k : Nat)
  | status | info | result | rlen | flags
  /-- `0x1FE`, `0x1FF`, `0x209` to `0x3FF` (R51). -/
  | unmapped
  /-- Past the 10-bit address space. -/
  | beyond
deriving DecidableEq, Repr

/-- The address map (R50). -/
def region (a : Nat) : Region :=
  if a < 0x100 then .pbuf a
  else if a < 0x1FE then .rbuf (a - 0x100)
  else if a < 0x200 then .unmapped
  else if a < 0x204 then .cmd (a - 0x200)
  else if a = 0x204 then .status
  else if a = 0x205 then .info
  else if a = 0x206 then .result
  else if a = 0x207 then .rlen
  else if a = 0x208 then .flags
  else if a < 0x400 then .unmapped
  else .beyond

/-- Byte `k` of `CMD` (R54). -/
def cmdByte (d : Descriptor) (k : Nat) : Byte := d.extractLsb' (8 * k) 8

/-- One more free value has been drawn for an invalid byte of RBUF (U6). -/
def State.drawStale (s : State) : State := { s with freeReads := s.freeReads + 1 }

/-- A one-byte host read (R20, R29, R32, R51, R54): it changes no state of the block (R55). A byte of RBUF at or
beyond `RLEN` is a fresh free value at every read (R32, U6). -/
def hostReadByte (a : Nat) (s : State) : Byte × State :=
  match region a with
  | .pbuf i => (s.byteAt .pbuf i, s)
  | .rbuf i =>
    if i < s.rlen.toNat then (s.byteAt .rbuf i, s)
    else (Config.staleRbufByte s.freeReads, s.drawStale)
  | .cmd k => (cmdByte s.cmd k, s)
  | .status => (s.status, s)
  | .info => (s.info, s)
  | .result => (s.result, s)
  | .rlen => (s.rlen, s)
  | .flags => (s.flags, s)
  | .unmapped => (0x00, s)
  | .beyond => (0x00, s)

/-- A one-byte host write (R20, R26, R29, R32, R51, R54): PBUF takes it, FLAGS clears by it, every other location
ignores it. -/
def hostWriteByte (a : Nat) (v : Byte) (s : State) : State :=
  match region a with
  | .pbuf i => s.store .pbuf i [v]
  | .flags => s.clearFlags v
  | .rbuf _ | .cmd _ | .status | .info | .result | .rlen | .unmapped | .beyond => s

/-- `n` one-byte reads in ascending address order (R55). -/
def hostReadBytes : Nat → Nat → State → List Byte × State
  | _, 0, s => ([], s)
  | a, n + 1, s =>
    let one := hostReadByte a s
    let rest := hostReadBytes (a + 1) n one.2
    (one.1 :: rest.1, rest.2)

/-- One-byte writes in ascending address order (R55). -/
def hostWriteBytes : Nat → List Byte → State → State
  | _, [], s => s
  | a, v :: vs, s => hostWriteBytes (a + 1) vs (hostWriteByte a v s)

/-- Whether the spec gives an address a part in an access wider than a byte: PBUF and RBUF (R55), `CMD` (R54) and
unmapped addresses (R51) have one, the byte registers do not (U15). -/
def wideByteOk (a : Nat) : Bool :=
  match region a with
  | .pbuf _ | .rbuf _ | .cmd _ | .unmapped => true
  | .status | .info | .result | .rlen | .flags | .beyond => false

/-- Whether the spec gives an access of `n` bytes at `a` a meaning: a single byte anywhere in the address space,
or a wider one all of whose bytes may take part in it. -/
def accessOk (a n : Nat) : Bool :=
  if n = 1 then decide (a < 0x400) else (List.range n).all (fun k => wideByteOk (a + k))

/-- The bytes a host read returned stand on the read port. -/
def State.withReadData (bs : List Byte) (s : State) : State := { s with rdata := bs }

/-- A host read of `n` bytes (R50, R55). -/
def hostRead (a n : Nat) (s : State) : Host.Outcome State Fault Refusal :=
  if accessOk a n then
    let r := hostReadBytes a n s
    .next (r.2.withReadData r.1)
  else .refused (.wideAccess a n)

/-- A host write other than the command write (R50, R54, R55). -/
def hostWrite (a : Nat) (bs : List Byte) (s : State) : Host.Outcome State Fault Refusal :=
  if accessOk a bs.length then .next (hostWriteBytes a bs s)
  else .refused (.wideAccess a bs.length)

/-- The one write that issues a command: four bytes at `0x200` exactly (R54, R55). -/
def isCommandWrite (a : Nat) (bs : List Byte) : Bool := decide (a = 0x200) && decide (bs.length = 4)

end Sys2Proof.Machine
end

