-- ==== Sys2Proof/Machine/Inputs.lean ====
section
/-! DEFINITION. What each event of the schedule does: the command write (spec/10_state.md R21), the sequencer's turn
(R27, R28), the reset pin (spec/70_reset_and_hazards.md R180, R181) and the environment's own moves (R57, R186,
R188). One event is one atomic action (spec/20_memory.md R55, R62). -/

namespace Sys2Proof.Machine

/-- The descriptor four bytes of a command write spell, lowest address first (R54). -/
def descriptorOf : List Byte → Descriptor
  | [b0, b1, b2, b3] => ofLittleEndian b0 b1 b2 b3
  | _ => 0

/-- The command write (R21). In IDLE it is an accept: the operation the descriptor selects runs its accept step, and a
reserved descriptor completes at once with ENC_ILLEGAL_OP (R81, R120). Otherwise it is dropped. -/
def issueCommand (bs : List Byte) (s : State) : Host.Outcome State Fault Refusal :=
  match s.phase with
  | .idle =>
    match decode bs with
    | .ok i => exec i s
    | .error _ => .next (accept (descriptorOf bs) (.error ⟨.encIllegalOp, 0x00⟩) s)
  | .tx | .rxhdr | .rxbody => .next s.setOverrun

/-- The operation in flight (R28): OPL, with the fields of the accepted descriptor. -/
def State.inFlight (s : State) : Except DecodeError Instr :=
  decodeFields s.opl (lenField s.cmd) (argField s.cmd)

/-- The sequencer's turn (R27): nothing in IDLE, else the next step of the operation in flight, with the transport's
answer on offer. -/
def sequencerTurn (answer : Option Answer) (s : State) : Host.Outcome State Fault Refusal :=
  match s.phase with
  | .idle => .next s
  | .tx | .rxhdr | .rxbody =>
    match s.inFlight with
    | .ok i => exec i (s.offer answer)
    | .error _ => .fault .noOperation

/-- A host access. While `rst = 1` every host write is ignored (R180). -/
def hostAccess (access : Access) (s : State) : Host.Outcome State Fault Refusal :=
  match access with
  | .read a n => hostRead a.toNat n s
  | .write a bs =>
    if s.rst then .next s
    else if isCommandWrite a.toNat bs then issueCommand bs s
    else hostWrite a.toNat bs s

/-- The device sends bytes (R57). -/
def State.arrive (bytes : List Byte) (s : State) : State := { s with rxStream := s.rxStream ++ bytes }

/-- Something other than the block takes bytes off the RX stream (R186, R188). -/
def State.drainRx (n : Nat) (s : State) : State := { s with rxStream := s.rxStream.drop n }

/-- The rest of the schedule. -/
def State.withInputs (rest : List Input) (s : State) : State := { s with inputs := rest }

/-- One event of the schedule. While `rst = 1` the sequencer takes no step and calls no transport primitive
(R180). -/
def applyInput (e : Input) (s : State) : Host.Outcome State Fault Refusal :=
  match e with
  | .host access => hostAccess access s
  | .turn answer => if s.rst then .next s else sequencerTurn answer s
  | .device bytes => .next (s.arrive bytes)
  | .drain n => .next (s.drainRx n)
  | .resetOn sent => .next (s.assertReset sent)
  | .resetOff => .next s.releaseReset

/-- The next event of the schedule, taken off it. When nothing is scheduled the sequencer has its turn, and the
transport does not answer. -/
def takeInput (s : State) : Host.Outcome State Fault Refusal :=
  match s.inputs with
  | [] => applyInput (.turn none) s
  | e :: rest => applyInput e (s.withInputs rest)

/-- The command write of a descriptor word, as the host makes it (R54). -/
def commandWrite (d : Descriptor) : Input := .host (.write 0x200 (littleEndian d))

end Sys2Proof.Machine
end

