-- ==== Sys2Proof/Machine/Step.lean ====
section
/-! DEFINITION. One step of the machine, and the state whose next step runs a given instruction. -/

namespace Sys2Proof.Machine

/-- One atomic action: the next event of the schedule (spec/00_scope.md R14, spec/20_memory.md R62). -/
def step (s : State) : Host.Outcome State Fault Refusal := takeInput s

/-- The state whose next step issues the descriptor whose bits are `w`: the block is out of reset and idle, and the
next event is the host's 32-bit write of the descriptor to `CMD` (R54, R120; notes/assumptions/3.md). -/
def State.withFetchWord (s : State) (nbits w : Nat) : State :=
  { s with
    rst := false
    phase := .idle
    inputs := commandWrite (BitVec.ofNat 32 (w % 2 ^ nbits)) :: s.inputs }

end Sys2Proof.Machine
end

