-- ==== Sys2Proof/Safety.lean ====
section
/-! DEFINITION. The terms claims are stated in: the invariant of the block, which states a run can reach, what counts as a
safe outcome, and short names for the situations the spec's rules speak of. -/

namespace Sys2Proof.Machine

/-- The 19 values `STATUS` can take (spec/30_encoding.md R84). -/
def legalStatus : List Byte :=
  [0x00, 0x11, 0x12, 0x13, 0x14, 0x21, 0x22, 0x31, 0x32, 0x33, 0x40, 0x51, 0x52, 0x53, 0x54, 0x5F,
   0x61, 0x62, 0x63]

/-- The operation codes of the read-type operations READ, GET_POWER and GET_INPUT (R80, R122). -/
def readTypeCode (op : BitVec 4) : Bool := decide (op = 1) || decide (op = 3) || decide (op = 6)

/-- The operation codes of the seven operations (R80). -/
def operationCode (op : BitVec 4) : Bool := decide (1 ≤ op.toNat) && decide (op.toNat ≤ 7)

/-- The block's registers, flags and sequencer latches at their reset values (R35). -/
def State.atResetValues (s : State) : Bool :=
  decide (s.cmd = 0) && decide (s.status = 0) && decide (s.info = 0) && decide (s.result = 0) &&
  decide (s.rlen = 0) && !s.done && !s.cmdOvr && decide (s.phase = .idle) && decide (s.opl = 0) &&
  decide (s.txlen = 0) && decide (s.mem = []) && decide (s.txbuf = []) && decide (s.hdr = [])

/-- What holds of the block between any two steps. -/
structure BlockInv (s : State) : Prop where
  /-- The buffers of the host address space are in canonical form. -/
  mem_wf : Memory.wf s.mem
  /-- TXBUF is in canonical form. -/
  txbuf_wf : Memory.wf s.txbuf
  /-- HDR is in canonical form. -/
  hdr_wf : Memory.wf s.hdr
  /-- Only addresses of PBUF and RBUF are listed (R50). -/
  mem_range : ∀ c ∈ s.mem, c.1 < 0x1FE
  /-- Only indices 0..258 of TXBUF are listed (R30). -/
  txbuf_range : ∀ c ∈ s.txbuf, c.1 < 259
  /-- Only indices 0..2 of HDR are listed (R31). -/
  hdr_range : ∀ c ∈ s.hdr, c.1 < 3
  /-- `STATUS` holds one of the codes of R84. -/
  status_legal : s.status ∈ legalStatus
  /-- `RLEN` is 0..254 (R25). -/
  rlen_le : s.rlen.toNat ≤ 254
  /-- `RESULT` is 0, 1 or an input-mode index (R24). -/
  result_le : s.result.toNat ≤ 12
  /-- `TXLEN` is 0..259 (R30). -/
  txlen_le : s.txlen.toNat ≤ 259
  /-- While an operation is in flight, `OPL` is its operation code and equals `CMD[31:28]` (R28). -/
  busy_opl : s.phase ≠ .idle → s.opl = opField s.cmd ∧ operationCode s.opl = true
  /-- While an operation is in flight, `DONE` is 0 and the result registers are 0 (R26, R185). -/
  busy_clear : s.phase ≠ .idle →
    s.done = false ∧ s.status = 0 ∧ s.info = 0 ∧ s.result = 0 ∧ s.rlen = 0
  /-- In phase TX, TXBUF holds a frame of 5 to 259 bytes that ends with its checksum (R56, R70). -/
  tx_frame : s.phase = .tx →
    5 ≤ s.txlen.toNat ∧ ∃ body : List Byte, s.txFrame = sealFrame body
  /-- In phase RXBODY, the operation is read-type and HDR holds an accepted header (R107, R123). -/
  body_readType : s.phase = .rxbody →
    readTypeCode s.opl = true ∧ s.byteAt .hdr 0 = hdrResp ∧ s.byteAt .hdr 1 = 0x00
  /-- Every valid byte of RBUF was written by the hardware (R25, R32). -/
  rbuf_written : ∀ i < s.rlen.toNat, (Memory.read s.mem (0x100 + i)).isSome = true
  /-- Under reset the block is at its reset values (R180). -/
  reset_held : s.rst = true → s.atResetValues = true

/-- The legality tests and the request frame of an operation at its accept step (R120). -/
def requestOf (i : Instr) (s : State) : Except Raise (List Byte) :=
  match i with
  | .read len func => requestRead len func
  | .write len func => requestWrite len func (fun n => s.load .pbuf n)
  | .getPower len arg => requestGetPower Config.cfg len arg
  | .setPower len arg => requestSetPower Config.cfg len arg
  | .setPicture len arg => requestSetPicture Config.cfg len arg
  | .getInput len arg => requestGetInput Config.cfg len arg
  | .setInput len arg => requestSetInput Config.cfg len arg

/-- `DECODE` of an operation in its RXBODY step (R123); the write-type operations have none. -/
def decodeOf (i : Instr) : List Byte → State → Except Raise State :=
  match i with
  | .getPower _ _ => decodePower
  | .getInput _ _ => decodeInput Config.cfg
  | .read _ _ | .write _ _ | .setPower _ _ | .setPicture _ _ | .setInput _ _ => fun _ t => .ok t

/-- Whether an operation is read-type (R80). -/
def isReadType (i : Instr) : Bool := readTypeCode (opCode i)

/-- The address a host access starts at (R50). -/
def Access.addr : Access → Nat
  | .read a _ => a.toNat
  | .write a _ => a.toNat

/-- How many bytes a host access is wide. -/
def Access.width : Access → Nat
  | .read _ n => n
  | .write _ bytes => bytes.length

/-- The host accesses the model turns away (U15, notes/assumptions/7.md): `n > 1` bytes at `a` that touch a byte
register at `0x204` to `0x208` or run past `0x3FF`. -/
abbrev turnedAway (a n : Nat) : Prop := 1 < n ∧ ((a ≤ 0x208 ∧ 0x204 < a + n) ∨ 0x400 < a + n)

/-- A safe outcome: the machine goes on, or it turned away a host access that the open host bus leaves without a
meaning. -/
def SafeOutcome : Host.Outcome State Fault Refusal → Prop
  | .next _ => True
  | .fault _ => False
  | .refused (.wideAccess a n) => turnedAway a n
  | .refused _ => False

/-- The host-visible outcome of an operation (R33): what the host can read of it. -/
structure OpOutcome where
  status : Byte
  info : Byte
  result : Byte
  payload : List Byte
deriving DecidableEq, Repr

/-- The outcome registers and the valid bytes of RBUF. -/
def State.outcome (s : State) : OpOutcome :=
  { status := s.status, info := s.info, result := s.result, payload := s.load .rbuf s.rlen.toNat }

/-- A valid read response around a payload, after its answer byte 0 (R73): the header. -/
def responseHeader (p : List Byte) : List Byte := [hdrResp, 0x00, BitVec.ofNat 8 (p.length + 1)]

/-- A valid read response around a payload (R73): the segment, payload then checksum. -/
def responseSegment (p : List Byte) : List Byte := p ++ [checksum (responseHeader p ++ p)]

/-- A well-formed write acknowledgement with answer byte `a` (R74). -/
def ackFrame (a : Byte) : List Byte := sealFrame [hdrResp, a]

/-- The status code of a nonzero answer byte (R83, R105). -/
def deviceStatus (a : Byte) : Byte :=
  if a = 0x01 then 0x51 else if a = 0x02 then 0x52 else if a = 0x03 then 0x53
  else if a = 0x04 then 0x54 else 0x5F

/-- `t` is `s` after an accept that put `frame` into TXBUF for the descriptor `d` and nothing more (R120): what
TX will send, the rest of TXBUF, and every other field. -/
structure Launches (s t : State) (d : Descriptor) (frame : List Byte) : Prop where
  /-- TXBUF holds the frame. -/
  sends : t.txFrame = frame
  /-- The rest of TXBUF is as it was; a byte of it that nothing has written keeps its free value (DESIGN CHOICE,
  notes/assumptions/4.md). -/
  txbuf_rest : ∀ i, frame.length ≤ i → t.byteAt .txbuf i = s.byteAt .txbuf i
  /-- Every other field, PBUF and RBUF among them. -/
  rest : t = { s with
    cmd := d, status := 0, info := 0, result := 0, rlen := 0, done := false
    phase := .tx, opl := d.extractLsb' 28 4, txlen := BitVec.ofNat 9 frame.length
    txbuf := t.txbuf }

/-- `s` after an accept that ended at once with the encoding error `code` (R120, R151, R160). -/
def State.refusedAtAccept (d : Descriptor) (code : Byte) (s : State) : State :=
  { s with cmd := d, status := code, info := 0, result := 0, rlen := 0, done := true, phase := .idle }

/-- `s` after a step that called `XportRead`, took `n` bytes off the RX stream and ended the operation with an error
(R57, R160). -/
def State.failedRead (n : Nat) (code info : Byte) (s : State) : State :=
  { s with
    answer := none, rxStream := s.rxStream.drop n
    status := code, info := info, done := true, phase := .idle }

/-- RBUF of `t` holds the payload `p`, and every other listed byte of the host address space, PBUF among them, is as
in `s` (R123, R128). -/
structure StoresPayload (s t : State) (p : List Byte) : Prop where
  /-- RBUF holds the payload. -/
  stored : t.load .rbuf p.length = p
  /-- Every address outside the stored bytes reads as before. -/
  others : ∀ a, a < 0x100 ∨ 0x100 + p.length ≤ a → Memory.read t.mem a = Memory.read s.mem a

/-- The request frame of a WRITE of `p` to function `f` (R72, R126). -/
def writeRequest (f : Byte) (p : List Byte) : List Byte :=
  [0x8C, 0x00, f, BitVec.ofNat 8 (p.length + 1)] ++ p ++
    [checksum ([0x8C, 0x00, f, BitVec.ofNat 8 (p.length + 1)] ++ p)]

/-- The request frame of a READ of function `f` (R71, R125). -/
def readRequest (f : Byte) : List Byte := [0x83, 0x00, f, 0xFF, 0xFF, 0x81 + f]

end Sys2Proof.Machine
end

