-- ==== Sys2Proof/Certificates/Slice0/Obligations.lean ====
section
/-! DEFINITION. The statements for the provers, in the order of OBLIGATIONS.json. Frames are given as whole states: a
conclusion `… = .next { s with … }` says of every field that is not named that it is unchanged. -/

open Sys2Proof Sys2Proof.Machine

/-! ### Descriptors: encoding and decoding -/

/-- R78, R90: the descriptor word is `(OP << 28) | (LEN << 16) | ARG`, and each field reads back from it. -/
def Obligations.DescriptorLayout : Prop :=
  ∀ (op : BitVec 4) (len : BitVec 12) (arg : BitVec 16),
    (packDescriptor op len arg).toNat = op.toNat * 2 ^ 28 + len.toNat * 2 ^ 16 + arg.toNat ∧
    opField (packDescriptor op len arg) = op ∧
    lenField (packDescriptor op len arg) = len ∧
    argField (packDescriptor op len arg) = arg

/-- Decoding the bytes of an operation gives the operation back, for all seven and every value of both fields. -/
def Obligations.DecodeInvertsEncode : Prop := ∀ i : Instr, decode (encode i) = .ok i

/-- Each descriptor has one meaning: bytes that decode are the bytes their operation encodes to. -/
def Obligations.EncodeInvertsDecode : Prop :=
  ∀ (bs : List Byte) (i : Instr), decode bs = .ok i → encode i = bs

/-- R80, R81: a descriptor selects an operation, by `OP` alone, exactly when `OP` is 1 to 7. -/
def Obligations.OperationSelectedByOpAlone : Prop :=
  ∀ d : Descriptor,
    (∀ i, decodeWord d = .ok i → opCode i = opField d) ∧
    ((∃ i, decodeWord d = .ok i) ↔ 1 ≤ (opField d).toNat ∧ (opField d).toNat ≤ 7)

/-- The example words of spec/opcode_table.json, byte by byte as the host writes them, decode to their rows. -/
def Obligations.TableExamplesDecode : Prop :=
  decode [0x02, 0x00, 0x00, 0x10] = .ok (.read 0 0x02) ∧
  decode [0x00, 0x00, 0x01, 0x20] = .ok (.write 1 0x00) ∧
  decode [0x00, 0x00, 0x00, 0x30] = .ok (.getPower 0 0) ∧
  decode [0x01, 0x00, 0x00, 0x40] = .ok (.setPower 0 1) ∧
  decode [0x04, 0x00, 0x00, 0x50] = .ok (.setPicture 0 4) ∧
  decode [0x00, 0x00, 0x00, 0x60] = .ok (.getInput 0 0) ∧
  decode [0x07, 0x00, 0x00, 0x70] = .ok (.setInput 0 7)

/-! ### The step -/

/-- A step runs the decoded operation. At a command write in IDLE the next step is the decoded operation's meaning; at the
sequencer's turn it is the meaning of the operation in flight, with the transport's answer on offer. -/
def Obligations.StepRunsDecodedOperation : Prop :=
  (∀ (s : State) (bs : List Byte) (rest : List Input) (i : Instr),
    s.rst = false → s.phase = .idle → s.inputs = .host (.write 0x200 bs) :: rest →
    decode bs = .ok i → step s = exec i (s.withInputs rest)) ∧
  (∀ (s : State) (a : Option Answer) (rest : List Input) (i : Instr),
    s.rst = false → s.phase ≠ .idle → s.inputs = .turn a :: rest → s.inFlight = .ok i →
    step s = exec i ((s.withInputs rest).offer a))

/-- R81: a reserved descriptor completes in its own accept step with ENC_ILLEGAL_OP; nothing is sent. -/
def Obligations.ReservedDescriptorCompletesAtOnce : Prop :=
  ∀ (s : State) (d : Descriptor) (rest : List Input),
    s.rst = false → s.phase = .idle → s.inputs = commandWrite d :: rest →
    ((opField d).toNat = 0 ∨ 8 ≤ (opField d).toNat) →
    step s = .next ((s.withInputs rest).refusedAtAccept d 0x13)

/-- R21, R184: a command written while an operation is in flight is dropped and sets CMD_OVR; nothing else changes. -/
def Obligations.CommandWhileBusyIsDropped : Prop :=
  ∀ (s : State) (d : Descriptor) (rest : List Input),
    s.rst = false → s.phase ≠ .idle → s.inputs = commandWrite d :: rest →
    step s = .next { s with inputs := rest, cmdOvr := true }

/-! ### Accept: the request of each operation -/

/-- R125: READ. -/
def Obligations.ReadLaunchesReadRequest : Prop :=
  ∀ (func : BitVec 16) (s : State), func.toNat ≤ 255 → s.phase = .idle →
    ∃ t, exec (.read 0 func) s = .next t ∧
      Launches s t (packDescriptor 1 0 func)
        [0x83, 0x00, func.setWidth 8, 0xFF, 0xFF, 0x81 + func.setWidth 8]

/-- R126: WRITE takes its payload from `PBUF[0 .. LEN-1]`. A byte of PBUF that nothing has written is taken as its
free value (DESIGN CHOICE, notes/assumptions/4.md). -/
def Obligations.WriteLaunchesPbufPayload : Prop :=
  ∀ (len : BitVec 12) (func : BitVec 16) (s : State),
    len.toNat ≤ 254 → func.toNat ≤ 255 → s.phase = .idle →
    ∃ t, exec (.write len func) s = .next t ∧
      Launches s t (packDescriptor 2 len func)
        (writeRequest (func.setWidth 8) (s.load .pbuf len.toNat))

/-- R136: GET_POWER. -/
def Obligations.GetPowerLaunchesReadRequest : Prop :=
  ∀ s : State, s.phase = .idle →
    ∃ t, exec (.getPower 0 0) s = .next t ∧
      Launches s t (packDescriptor 3 0 0)
        [0x83, 0x00, Config.cfg.funcPower, 0xFF, 0xFF, 0x81 + Config.cfg.funcPower]

/-- R138: SET_POWER, off (0) and on (1). -/
def Obligations.SetPowerLaunchesWriteRequest : Prop :=
  ∀ (arg : BitVec 16) (s : State), arg.toNat ≤ 1 → s.phase = .idle →
    ∃ t, exec (.setPower 0 arg) s = .next t ∧
      Launches s t (packDescriptor 4 0 arg)
        [0x8C, 0x00, Config.cfg.funcPower, 0x02, arg.setWidth 8,
          0x8E + Config.cfg.funcPower + arg.setWidth 8]

/-- R139: SET_PICTURE, each of the eight indices. -/
def Obligations.SetPictureLaunchesDirectSelection : Prop :=
  ∀ (arg : BitVec 16) (s : State), arg.toNat ≤ 7 → s.phase = .idle →
    ∃ m t, PictureMode.all[arg.toNat]? = some m ∧ exec (.setPicture 0 arg) s = .next t ∧
      Launches s t (packDescriptor 5 0 arg)
        [0x8C, 0x00, Config.cfg.funcPicture, 0x03, Config.cfg.subcmdDirect, Config.cfg.picCode m,
          0x8F + Config.cfg.funcPicture + Config.cfg.subcmdDirect + Config.cfg.picCode m]

/-- R141: GET_INPUT. -/
def Obligations.GetInputLaunchesReadRequest : Prop :=
  ∀ s : State, s.phase = .idle →
    ∃ t, exec (.getInput 0 0) s = .next t ∧
      Launches s t (packDescriptor 6 0 0)
        [0x83, 0x00, Config.cfg.funcInput, 0xFF, 0xFF, 0x81 + Config.cfg.funcInput]

/-- R144: SET_INPUT, each of the thirteen indices; one nibble of the code in each payload byte. -/
def Obligations.SetInputLaunchesNibbles : Prop :=
  ∀ (arg : BitVec 16) (s : State), arg.toNat ≤ 12 → s.phase = .idle →
    ∃ m hi lo t, InputMode.all[arg.toNat]? = some m ∧
      hi.toNat = (Config.cfg.inpCode m).toNat / 16 ∧ lo.toNat = (Config.cfg.inpCode m).toNat % 16 ∧
      exec (.setInput 0 arg) s = .next t ∧
      Launches s t (packDescriptor 7 0 arg)
        [0x8C, 0x00, Config.cfg.funcInput, 0x03, hi, lo, 0x8F + Config.cfg.funcInput + hi + lo]

/-- R79: a must-be-zero field that is not, or an argument out of its bound, ends the accept step with
ENC_ILLEGAL_ARG and nothing is sent. -/
def Obligations.IllegalFieldsRefusedAtAccept : Prop :=
  ∀ (len : BitVec 12) (arg : BitVec 16) (s : State), s.phase = .idle →
    (len ≠ 0 → exec (.read len arg) s = .next (s.refusedAtAccept (packDescriptor 1 len arg) 0x14)) ∧
    (len ≠ 0 ∨ arg ≠ 0 →
      exec (.getPower len arg) s = .next (s.refusedAtAccept (packDescriptor 3 len arg) 0x14)) ∧
    (len ≠ 0 ∨ 1 < arg.toNat →
      exec (.setPower len arg) s = .next (s.refusedAtAccept (packDescriptor 4 len arg) 0x14)) ∧
    (len ≠ 0 ∨ 7 < arg.toNat →
      exec (.setPicture len arg) s = .next (s.refusedAtAccept (packDescriptor 5 len arg) 0x14)) ∧
    (len ≠ 0 ∨ arg ≠ 0 →
      exec (.getInput len arg) s = .next (s.refusedAtAccept (packDescriptor 6 len arg) 0x14)) ∧
    (len ≠ 0 ∨ 12 < arg.toNat →
      exec (.setInput len arg) s = .next (s.refusedAtAccept (packDescriptor 7 len arg) 0x14))

/-- R125, R126, R158: the function number is tested before the payload size; nothing is sent. -/
def Obligations.RangeTestedBeforeSize : Prop :=
  ∀ (len : BitVec 12) (func : BitVec 16) (s : State), s.phase = .idle →
    (255 < func.toNat →
      exec (.read 0 func) s = .next (s.refusedAtAccept (packDescriptor 1 0 func) 0x11)) ∧
    (255 < func.toNat →
      exec (.write len func) s = .next (s.refusedAtAccept (packDescriptor 2 len func) 0x11)) ∧
    (func.toNat ≤ 255 → 254 < len.toNat →
      exec (.write len func) s = .next (s.refusedAtAccept (packDescriptor 2 len func) 0x12))

/-! ### The TX step, and a transport that does not answer -/

/-- R121: the TX step of every operation hands the whole frame to the transport in one call and moves to RXHDR. If the call
fails the operation ends with XPORT_WRITE_FAIL, some prefix of the frame having gone out (R56), and no response is
read. Until the transport answers the step is not enabled. -/
def Obligations.TxStepSendsWholeFrame : Prop :=
  ∀ (i : Instr) (s : State), s.phase = .tx →
    (∀ k, s.answer = some (.ok k) → exec i s = .next
      { s with answer := none, txStream := s.txStream ++ s.txFrame, phase := .rxhdr }) ∧
    (∀ k, s.answer = some (.fail k) → exec i s = .next
      { s with
        answer := none, txStream := s.txStream ++ s.txFrame.take k
        status := 0x21, info := 0, done := true, phase := .idle }) ∧
    (s.answer = none → exec i s = .next s)

/-- R122, R123: a failed `XportRead` ends the operation with XPORT_READ_FAIL, in either receive phase. How many bytes
it takes off the RX stream R162 calls unknown: any number up to those asked for (DESIGN CHOICE, notes/assumptions/8.md). -/
def Obligations.FailedReadEndsOperation : Prop :=
  ∀ (i : Instr) (s : State) (k : Nat), s.answer = some (.fail k) →
    (s.phase = .rxhdr → exec i s = .next (s.failedRead (min 3 k) 0x22 0)) ∧
    (s.phase = .rxbody → isReadType i = true → s.byteAt .hdr 2 ≠ 0 →
      exec i s = .next (s.failedRead (min (s.byteAt .hdr 2).toNat k) 0x22 0))

/-- R189: a transport that never answers. As long as every turn brings no answer, an operation waiting for one stays where
it is: BUSY stays 1 and nothing of the block or the link changes. -/
def Obligations.NeverAnsweredNeverCompletes : Prop :=
  ∀ (n : Nat) (s : State), BlockInv s → s.rst = false → s.answer = none →
    s.inputs = List.replicate n (.turn none) →
    (s.phase = .tx ∨ s.phase = .rxhdr ∨ (s.phase = .rxbody ∧ s.byteAt .hdr 2 ≠ 0)) →
    Sys2Proof.core.run n s = .next { s with inputs := [] }

/-! ### The RXHDR step -/

/-- R108, R122: the acknowledgement `70 00 70` completes a write-type operation (WRITE, SET_POWER, SET_PICTURE,
SET_INPUT); exactly three bytes are consumed. -/
def Obligations.AcknowledgementCompletesWrites : Prop :=
  ∀ (i : Instr) (s : State) (k : Nat) (rest : List Byte),
    isReadType i = false → s.phase = .rxhdr → s.answer = some (.ok k) → 3 ≤ k →
    s.rxStream = [0x70, 0x00, 0x70] ++ rest →
    exec i s = .next
      { s with answer := none, rxStream := rest, status := 0, done := true, phase := .idle }

/-- R108: an acknowledgement is validated in the order length, header, checksum, answer. -/
def Obligations.AcknowledgementErrorsInOrder : Prop :=
  ∀ (i : Instr) (s : State) (k : Nat),
    isReadType i = false → s.phase = .rxhdr → s.answer = some (.ok k) →
    ((s.rxStream.take (min 3 k)).length < 3 →
      exec i s = .next
        (s.failedRead (min 3 k) 0x32 (BitVec.ofNat 8 (s.rxStream.take (min 3 k)).length))) ∧
    (∀ h a c : Byte, s.rxStream.take (min 3 k) = [h, a, c] →
      (h ≠ 0x70 → exec i s = .next (s.failedRead 3 0x31 h)) ∧
      (h = 0x70 → c ≠ 0x70 + a → exec i s = .next (s.failedRead 3 0x40 c)) ∧
      (h = 0x70 → c = 0x70 + a → a ≠ 0 → exec i s = .next (s.failedRead 3 (deviceStatus a) a)))

/-- R106, R122: a header `70 00 L` moves a read-type operation (READ, GET_POWER, GET_INPUT) to RXBODY with the header
latched. -/
def Obligations.AcceptedHeaderIsLatched : Prop :=
  ∀ (i : Instr) (s : State) (k : Nat) (l : Byte) (rest : List Byte),
    isReadType i = true → s.phase = .rxhdr → s.answer = some (.ok k) → 3 ≤ k →
    s.rxStream = [0x70, 0x00, l] ++ rest →
    ∃ t, exec i s = .next t ∧ t.header = [0x70, 0x00, l] ∧
      (∀ j, 3 ≤ j → t.byteAt .hdr j = s.byteAt .hdr j) ∧
      t = { s with answer := none, rxStream := rest, phase := .rxbody, hdr := t.hdr }

/-- R106, R109: a read response's header is validated in the order length, header byte, answer; a nonzero answer ends the
operation whatever the third byte is, and no checksum is looked at. -/
def Obligations.ReadHeaderErrorsInOrder : Prop :=
  ∀ (i : Instr) (s : State) (k : Nat),
    isReadType i = true → s.phase = .rxhdr → s.answer = some (.ok k) →
    ((s.rxStream.take (min 3 k)).length < 3 →
      exec i s = .next
        (s.failedRead (min 3 k) 0x32 (BitVec.ofNat 8 (s.rxStream.take (min 3 k)).length))) ∧
    (∀ h a c : Byte, s.rxStream.take (min 3 k) = [h, a, c] →
      (h ≠ 0x70 → exec i s = .next (s.failedRead 3 0x31 h)) ∧
      (h = 0x70 → a ≠ 0 → exec i s = .next (s.failedRead 3 (deviceStatus a) a)))

/-! ### The RXBODY step -/

/-- R107, R123, R125: READ completes on a segment of the declared length whose checksum is right. -/
def Obligations.ReadCompletesWithPayload : Prop :=
  ∀ (len : BitVec 12) (func : BitVec 16) (s : State) (k : Nat) (p rest : List Byte),
    s.phase = .rxbody → s.answer = some (.ok k) → (s.byteAt .hdr 2).toNat = p.length + 1 →
    p.length + 1 ≤ k → s.rxStream = p ++ [checksum (s.header ++ p)] ++ rest →
    ∃ t, exec (.read len func) s = .next t ∧ StoresPayload s t p ∧
      t = { s with
        answer := none, rxStream := rest, mem := t.mem, rlen := BitVec.ofNat 8 p.length
        status := 0, done := true, phase := .idle }

/-- R137: GET_POWER completes on a one-byte payload 0 (off) or 1 (on). -/
def Obligations.GetPowerCompletesWithState : Prop :=
  ∀ (len : BitVec 12) (arg : BitVec 16) (s : State) (k : Nat) (b : Byte) (rest : List Byte),
    s.phase = .rxbody → s.answer = some (.ok k) → s.byteAt .hdr 2 = 2 → 2 ≤ k →
    s.rxStream = [b, checksum (s.header ++ [b])] ++ rest → b = 0 ∨ b = 1 →
    ∃ t, exec (.getPower len arg) s = .next t ∧ StoresPayload s t [b] ∧
      t = { s with
        answer := none, rxStream := rest, mem := t.mem, rlen := 1, result := b
        status := 0, done := true, phase := .idle }

/-- R142: GET_INPUT completes on a two-byte payload whose low nibbles spell the code of an input mode. -/
def Obligations.GetInputCompletesWithIndex : Prop :=
  ∀ (len : BitVec 12) (arg : BitVec 16) (s : State) (k n : Nat) (m : InputMode) (b0 b1 : Byte)
    (rest : List Byte),
    s.phase = .rxbody → s.answer = some (.ok k) → s.byteAt .hdr 2 = 3 → 3 ≤ k →
    s.rxStream = [b0, b1, checksum (s.header ++ [b0, b1])] ++ rest →
    InputMode.all[n]? = some m →
    (Config.cfg.inpCode m).toNat = b0.toNat % 16 * 16 + b1.toNat % 16 →
    ∃ t, exec (.getInput len arg) s = .next t ∧ StoresPayload s t [b0, b1] ∧
      t = { s with
        answer := none, rxStream := rest, mem := t.mem, rlen := 2
        result := BitVec.ofNat 8 n, info := Config.cfg.inpCode m
        status := 0, done := true, phase := .idle }

/-- R137: the decode errors of GET_POWER; RBUF and RLEN hold the payload (R25, R156). -/
def Obligations.GetPowerDecodeErrors : Prop :=
  ∀ (len : BitVec 12) (arg : BitVec 16) (s : State) (k : Nat) (p rest : List Byte),
    s.phase = .rxbody → s.answer = some (.ok k) → (s.byteAt .hdr 2).toNat = p.length + 1 →
    p.length + 1 ≤ k → s.rxStream = p ++ [checksum (s.header ++ p)] ++ rest →
    (p.length ≠ 1 → ∃ t, exec (.getPower len arg) s = .next t ∧ StoresPayload s t p ∧
      t = { s with
        answer := none, rxStream := rest, mem := t.mem, rlen := BitVec.ofNat 8 p.length
        status := 0x63, info := BitVec.ofNat 8 p.length, done := true, phase := .idle }) ∧
    (∀ b : Byte, p = [b] → b ≠ 0 → b ≠ 1 →
      ∃ t, exec (.getPower len arg) s = .next t ∧ StoresPayload s t p ∧
        t = { s with
          answer := none, rxStream := rest, mem := t.mem, rlen := 1
          status := 0x61, info := b, done := true, phase := .idle })

/-- R142: the decode errors of GET_INPUT; the table is closed, and RBUF and RLEN hold the payload. -/
def Obligations.GetInputDecodeErrors : Prop :=
  ∀ (len : BitVec 12) (arg : BitVec 16) (s : State) (k : Nat) (p rest : List Byte),
    s.phase = .rxbody → s.answer = some (.ok k) → (s.byteAt .hdr 2).toNat = p.length + 1 →
    p.length + 1 ≤ k → s.rxStream = p ++ [checksum (s.header ++ p)] ++ rest →
    (p.length ≠ 2 → ∃ t, exec (.getInput len arg) s = .next t ∧ StoresPayload s t p ∧
      t = { s with
        answer := none, rxStream := rest, mem := t.mem, rlen := BitVec.ofNat 8 p.length
        status := 0x63, info := BitVec.ofNat 8 p.length, done := true, phase := .idle }) ∧
    (∀ b0 b1 c : Byte, p = [b0, b1] → c.toNat = b0.toNat % 16 * 16 + b1.toNat % 16 →
      (∀ m, Config.cfg.inpCode m ≠ c) →
      ∃ t, exec (.getInput len arg) s = .next t ∧ StoresPayload s t p ∧
        t = { s with
          answer := none, rxStream := rest, mem := t.mem, rlen := 2
          status := 0x62, info := c, done := true, phase := .idle })

/-- R107, R123: the frame errors of the RXBODY step, in order: a declared length of 0 is refused without a transport call,
then a short segment, then a wrong checksum. RBUF is not written. -/
def Obligations.SegmentErrorsInOrder : Prop :=
  ∀ (i : Instr) (s : State), isReadType i = true → s.phase = .rxbody →
    (s.byteAt .hdr 2 = 0 → exec i s = .next (s.failedRead 0 0x33 0)) ∧
    (∀ (k l : Nat) (r : List Byte), l = (s.byteAt .hdr 2).toNat → l ≠ 0 →
      s.answer = some (.ok k) → r = s.rxStream.take (min l k) →
      (r.length < l →
        exec i s = .next (s.failedRead (min l k) 0x32 (BitVec.ofNat 8 r.length))) ∧
      (∀ (p : List Byte) (c : Byte), r = p ++ [c] → r.length = l → checksum (s.header ++ p) ≠ c →
        exec i s = .next (s.failedRead l 0x40 c)))

/-! ### The Frame Codec as functions -/

/-- R100: the checksum is the exact sum of the bytes mod 256, and an 8-bit accumulator that adds byte after byte computes
it. -/
def Obligations.ChecksumIsLowByteOfSum : Prop :=
  checksum [] = 0 ∧
  (∀ s : List Byte, (checksum s).toNat = (s.map BitVec.toNat).sum % 256) ∧
  (∀ (s : List Byte) (b : Byte), checksum (s ++ [b]) = checksum s + b)

/-- R83, R105: the answer table, closed on its known codes and total over all 256 bytes. -/
def Obligations.AnswerTable : Prop :=
  answerCheck 0x00 = .ok () ∧
  answerCheck 0x01 = .error ⟨.devLimitOver, 0x01⟩ ∧ Error.devLimitOver.code = 0x51 ∧
  answerCheck 0x02 = .error ⟨.devLimitUnder, 0x02⟩ ∧ Error.devLimitUnder.code = 0x52 ∧
  answerCheck 0x03 = .error ⟨.devCanceled, 0x03⟩ ∧ Error.devCanceled.code = 0x53 ∧
  answerCheck 0x04 = .error ⟨.devParse, 0x04⟩ ∧ Error.devParse.code = 0x54 ∧
  Error.devUnrecognized.code = 0x5F ∧
  ∀ a : Byte, 0x05 ≤ a.toNat → answerCheck a = .error ⟨.devUnrecognized, a⟩

/-- R103 and V-Q1: `BUILD_READ`. -/
def Obligations.BuildReadFrame : Prop :=
  Error.encRange.code = 0x11 ∧ ∀ f : BitVec 16,
    (f.toNat ≤ 255 →
      buildRead f = .ok [0x83, 0x00, f.setWidth 8, 0xFF, 0xFF, 0x81 + f.setWidth 8]) ∧
    (255 < f.toNat → buildRead f = .error ⟨.encRange, 0⟩)

/-- R104 and V-Q2: `BUILD_WRITE`. -/
def Obligations.BuildWriteFrame : Prop :=
  Error.encRange.code = 0x11 ∧ Error.encSize.code = 0x12 ∧ ∀ (f : BitVec 16) (p : List Byte),
    (255 < f.toNat → buildWrite f p = .error ⟨.encRange, 0⟩) ∧
    (f.toNat ≤ 255 → 254 < p.length → buildWrite f p = .error ⟨.encSize, 0⟩) ∧
    (f.toNat ≤ 255 → p.length ≤ 254 →
      ∃ frame : List Byte, buildWrite f p = .ok frame ∧ frame.length = p.length + 5 ∧
        frame.take 4 = [0x8C, 0x00, f.setWidth 8, BitVec.ofNat 8 (p.length + 1)] ∧
        (frame.drop 4).take p.length = p ∧
        frame.getLast? = some (checksum frame.dropLast))

/-- R110: a valid response around a payload is parsed back to that payload, and the last byte of every built frame is the
checksum of the bytes before it. -/
def Obligations.ParseRoundTrip : Prop :=
  (∀ p : List Byte, p.length ≤ 254 →
    parseReadHdr (responseHeader p) = .ok (BitVec.ofNat 8 (p.length + 1)) ∧
    (BitVec.ofNat 8 (p.length + 1) : Byte).toNat = p.length + 1 ∧
    parseReadBody (responseHeader p) (responseSegment p) = .ok p) ∧
  (∀ (f : BitVec 16) (p frame : List Byte), f.toNat ≤ 255 →
    buildRead f = .ok frame ∨ buildWrite f p = .ok frame →
    frame.getLast? = some (checksum frame.dropLast))

/-- R111, V-Q4: one changed byte of a well-formed acknowledgement is refused. -/
def Obligations.ChangedAcknowledgementRefused : Prop :=
  ∀ a b : Byte,
    (b ≠ 0x70 → parseAck ((ackFrame a).set 0 b) = .error ⟨.frameHeader, b⟩) ∧
    (b ≠ a → parseAck ((ackFrame a).set 1 b) = .error ⟨.checksum, 0x70 + a⟩) ∧
    (b ≠ 0x70 + a → parseAck ((ackFrame a).set 2 b) = .error ⟨.checksum, b⟩)

/-- R111, V-Q4: one changed byte of a valid read response, other than its length byte, is refused; a length byte made larger
is a short segment; a smaller nonzero one is refused unless the sum over what is read happens to fit (C10). -/
def Obligations.ChangedReadResponseRefused : Prop :=
  (∀ (p : List Byte) (b : Byte), p.length ≤ 254 →
    (b ≠ 0x70 → parseReadHdr ((responseHeader p).set 0 b) = .error ⟨.frameHeader, b⟩) ∧
    (b ≠ 0 → ∃ e : Error, e.code = deviceStatus b ∧
      parseReadHdr ((responseHeader p).set 1 b) = .error ⟨e, b⟩) ∧
    (∀ j < p.length, p[j]? ≠ some b →
      parseReadBody (responseHeader p) ((responseSegment p).set j b) =
        .error ⟨.checksum, checksum (responseHeader p ++ p)⟩) ∧
    (b ≠ checksum (responseHeader p ++ p) →
      parseReadBody (responseHeader p) ((responseSegment p).set p.length b) =
        .error ⟨.checksum, b⟩) ∧
    (p.length + 1 < b.toNat →
      parseReadBody ((responseHeader p).set 2 b) (responseSegment p) =
        .error ⟨.frameLength, BitVec.ofNat 8 (p.length + 1)⟩) ∧
    (∀ short : List Byte, short = (responseSegment p).take b.toNat → 1 ≤ b.toNat →
      b.toNat < p.length + 1 → ∀ q c, short = q ++ [c] →
      parseReadBody ((responseHeader p).set 2 b) short =
        if checksum ([0x70, 0x00, b] ++ q) = c then .ok q else .error ⟨.checksum, c⟩)) ∧
  parseReadBody [0x70, 0x00, 0x03] [0x71, 0x00, 0xE4] = .ok [0x71, 0x00] ∧
  parseReadBody [0x70, 0x00, 0x01] [0x71] = .ok []

/-- V-Q8: for every legal configuration, GET_INPUT reads back the index of the mode whose payload SET_INPUT sends. -/
def Obligations.InputDecodeInvertsEncode : Prop :=
  ∀ (c : Cfg) (n : Nat) (m : InputMode), c.Legal → InputMode.all[n]? = some m →
    inputOf c (inputPayload (c.inpCode m)) = .ok (BitVec.ofNat 8 n, c.inpCode m)

/-! ### The host port -/

/-- R20, R26, R50, R51: what a one-byte host read returns, at every address but the invalid bytes of RBUF. A byte
of a buffer that nothing has written is returned as its free value (DESIGN CHOICE, notes/assumptions/4.md). -/
def Obligations.HostReadsAddressMap : Prop :=
  ∀ (s : State) (a : BitVec 10) (rest : List Input),
    s.inputs = .host (.read a 1) :: rest →
    (∀ v : Byte,
      (a.toNat < 0x100 ∧ v = s.byteAt .pbuf a.toNat) ∨
      (0x100 ≤ a.toNat ∧ a.toNat < 0x1FE ∧ a.toNat - 0x100 < s.rlen.toNat ∧
        v = s.byteAt .rbuf (a.toNat - 0x100)) ∨
      ((a.toNat = 0x1FE ∨ a.toNat = 0x1FF ∨ 0x209 ≤ a.toNat) ∧ v = 0) ∨
      (0x200 ≤ a.toNat ∧ a.toNat ≤ 0x203 ∧ v = (s.cmd >>> (8 * (a.toNat - 0x200))).setWidth 8) ∨
      (a.toNat = 0x204 ∧ v = s.status) ∨ (a.toNat = 0x205 ∧ v = s.info) ∨
      (a.toNat = 0x206 ∧ v = s.result) ∨ (a.toNat = 0x207 ∧ v = s.rlen) ∨
      (a.toNat = 0x208 ∧ v.toNat =
        (if s.phase = .idle then 0 else 1) + (if s.done then 2 else 0) + (if s.cmdOvr then 4 else 0)) →
      step s = .next { s with inputs := rest, rdata := [v] })

/-- R54: a read of any part of `0x200` to `0x203`, of any width, returns those bytes of CMD, least significant
first. -/
def Obligations.CommandReadsLittleEndian : Prop :=
  ∀ (s : State) (a : BitVec 10) (n : Nat) (rest : List Input),
    s.inputs = .host (.read a n) :: rest → 0x200 ≤ a.toNat → a.toNat + n ≤ 0x204 →
    step s = .next
      { s with
        inputs := rest
        rdata := ([s.cmd.extractLsb' 0 8, s.cmd.extractLsb' 8 8, s.cmd.extractLsb' 16 8,
          s.cmd.extractLsb' 24 8].drop (a.toNat - 0x200)).take n }

/-- R55: no host read has a side effect on the block or the link. -/
def Obligations.HostReadsHaveNoSideEffect : Prop :=
  ∀ (s t : State) (a : BitVec 10) (n : Nat) (rest : List Input),
    s.inputs = .host (.read a n) :: rest → step s = .next t →
    t = { s with inputs := rest, rdata := t.rdata, freeReads := t.freeReads } ∧
      t.rdata.length = n

/-- R29: a host write to PBUF stores its byte, in any phase, and changes nothing else; in particular not the frame of an
operation in flight (R64). -/
def Obligations.PbufWriteStoresByte : Prop :=
  ∀ (s : State) (a : BitVec 10) (v : Byte) (rest : List Input),
    s.rst = false → s.inputs = .host (.write a [v]) :: rest → a.toNat < 0x100 →
    ∃ t, step s = .next t ∧ t.byteAt .pbuf a.toNat = v ∧
      (∀ j, j ≠ a.toNat → Memory.read t.mem j = Memory.read s.mem j) ∧
      t.txFrame = s.txFrame ∧ t = { s with inputs := rest, mem := t.mem }

/-- R26: a host write to FLAGS clears DONE by bit 1 and CMD_OVR by bit 2 and ignores every other bit. -/
def Obligations.FlagsWriteOneToClear : Prop :=
  ∀ (s : State) (w : Byte) (rest : List Input),
    s.rst = false → s.inputs = .host (.write 0x208 [w]) :: rest →
    step s = .next
      { s with
        inputs := rest
        done := if w.getLsbD 1 then false else s.done
        cmdOvr := if w.getLsbD 2 then false else s.cmdOvr }

/-- R20, R51, R54: one-byte writes to RBUF, CMD, the read-only registers and unmapped addresses are ignored, and so are
writes among `0x200` to `0x203` narrower than the 32-bit command write. -/
def Obligations.OtherWritesIgnored : Prop :=
  ∀ (s : State) (a : BitVec 10) (bs : List Byte) (rest : List Input),
    s.rst = false → s.inputs = .host (.write a bs) :: rest →
    ((bs.length = 1 ∧ 0x100 ≤ a.toNat ∧ a.toNat ≠ 0x208) ∨
      (bs.length < 4 ∧ 0x200 ≤ a.toNat ∧ a.toNat + bs.length ≤ 0x204)) →
    step s = .next (s.withInputs rest)

/-- The one refusal of the model (DESIGN CHOICE, notes/assumptions/7.md; U15): a host access wider than a byte that touches the
byte registers at `0x204` to `0x208` or runs past `0x3FF`. A write is ignored under reset (R180). -/
def Obligations.WideRegisterAccessRefused : Prop :=
  ∀ (s : State) (a : BitVec 10) (n : Nat) (bs : List Byte) (rest : List Input),
    turnedAway a.toNat n → bs.length = n →
    (s.inputs = .host (.read a n) :: rest → step s = .refused (.wideAccess a.toNat n)) ∧
    (s.rst = false → s.inputs = .host (.write a bs) :: rest →
      step s = .refused (.wideAccess a.toNat n))

/-! ### Reset -/

/-- R35: the state after reset. The unspecified contents of the buffers are free values (DESIGN CHOICE,
notes/assumptions/4.md). -/
def Obligations.ResetValues : Prop :=
  State.reset.cmd = 0 ∧ State.reset.status = 0 ∧ State.reset.info = 0 ∧ State.reset.result = 0 ∧
  State.reset.rlen = 0 ∧ State.reset.flags = 0 ∧ State.reset.phase = .idle ∧ State.reset.opl = 0 ∧
  State.reset.txlen = 0 ∧
  ∀ b i, State.reset.byteAt b i = Config.bufferAtReset b 0 i

/-- R180, R181: a reset, also in the middle of an operation, abandons it without completing, clears the block and leaves
the RX stream alone. -/
def Obligations.ResetAbandonsOperation : Prop :=
  ∀ (s : State) (sent : Nat) (rest : List Input), s.inputs = .resetOn sent :: rest →
    step s = .next
      { State.reset with
        rst := true, inputs := rest, rxStream := s.rxStream, rdata := s.rdata
        resets := s.resets + 1, freeReads := s.freeReads
        txStream :=
          if s.phase = .tx then s.txStream ++ s.txFrame.take sent else s.txStream }

/-- R180: while `rst = 1` every host write is ignored, no step is taken, and a host read of a register returns its reset
value. A step on an empty schedule is a turn
without an answer (DESIGN CHOICE, notes/assumptions/2.md). -/
def Obligations.NothingMovesUnderReset : Prop :=
  ∀ (s : State) (rest : List Input), s.rst = true →
    (∀ a bs, s.inputs = .host (.write a bs) :: rest → step s = .next (s.withInputs rest)) ∧
    (∀ x, s.inputs = .turn x :: rest → step s = .next (s.withInputs rest)) ∧
    (s.inputs = [] → step s = .next s) ∧
    (∀ a : BitVec 10, BlockInv s → 0x1FE ≤ a.toNat → s.inputs = .host (.read a 1) :: rest →
      step s = .next { s with inputs := rest, rdata := [0] })

/-! ### The whole machine -/

/-- The block's invariant holds at reset. -/
def Obligations.InvariantAtReset : Prop := BlockInv State.reset

/-- Every step keeps the block's invariant. -/
def Obligations.StepKeepsInvariant : Prop :=
  ∀ s t : State, BlockInv s → step s = .next t → BlockInv t

/-- From every state that meets the invariant the machine goes on, whatever the host, the device and the transport do:
it never faults, and all it refuses is the next event of the schedule where that is a host access wider than a byte that
touches the byte registers at `0x204` to `0x208` or runs past `0x3FF` (notes/assumptions/7.md). -/
def Obligations.NoFaultUnderInvariant : Prop :=
  ∀ s : State, BlockInv s →
    SafeOutcome (step s) ∧
    ∀ a n, step s = .refused (.wideAccess a n) →
      ∃ (acc : Access) (rest : List Input), s.inputs = .host acc :: rest ∧ acc.addr = a ∧ acc.width = n

/-- R27, R127: PHASE moves only forward one place, or to IDLE. -/
def Obligations.PhaseOnlyAdvances : Prop :=
  ∀ s t : State, step s = .next t →
    t.phase = s.phase ∨ t.phase = .idle ∨ (s.phase = .idle ∧ t.phase = .tx) ∨
      (s.phase = .tx ∧ t.phase = .rxhdr) ∨ (s.phase = .rxhdr ∧ t.phase = .rxbody)

/-- R22 to R25: the result registers are written by an accepted command write, by the turn of the sequencer that completes the
operation in flight, and by reset, and at no other time. A step on an empty schedule is a turn
without an answer (DESIGN CHOICE, notes/assumptions/2.md). -/
def Obligations.ResultRegistersWrittenOnlyAtEnds : Prop :=
  ∀ s t : State, step s = .next t →
    (t.status = s.status ∧ t.info = s.info ∧ t.result = s.result ∧ t.rlen = s.rlen) ∨
    ((∃ d rest, s.inputs = commandWrite d :: rest) ∧ s.rst = false ∧ s.phase = .idle ∧
      t.info = 0 ∧ t.result = 0 ∧ t.rlen = 0 ∧
      ((t.phase = .tx ∧ t.status = 0) ∨
        (t.phase = .idle ∧ t.done = true ∧ t.status ∈ [0x11, 0x12, 0x13, 0x14]))) ∨
    ((s.inputs = [] ∨ ∃ x rest, s.inputs = .turn x :: rest) ∧ s.rst = false ∧ s.phase ≠ .idle ∧
      t.phase = .idle ∧ t.done = true) ∨
    ((∃ n rest, s.inputs = .resetOn n :: rest) ∧
      t.status = 0 ∧ t.info = 0 ∧ t.result = 0 ∧ t.rlen = 0)

/-- R165: the interrupt line rises only in a step that completes an operation: a turn of the sequencer that takes it back to
IDLE, or a command write in IDLE whose descriptor is refused and which writes its encoding error's code to STATUS. A step on an empty schedule is a turn
without an answer (DESIGN CHOICE, notes/assumptions/2.md). -/
def Obligations.IrqRisesOnlyAtCompletion : Prop :=
  ∀ s t : State, step s = .next t → s.irq = false → t.irq = true →
    s.rst = false ∧ t.phase = .idle ∧
      (((s.inputs = [] ∨ ∃ x rest, s.inputs = .turn x :: rest) ∧ s.phase ≠ .idle) ∨
        (s.phase = .idle ∧ t.status ∈ [0x11, 0x12, 0x13, 0x14] ∧
          ∃ d rest, s.inputs = commandWrite d :: rest ∧ t.cmd = d))

/-- What each event of the schedule does to the RX stream. By the spec: bytes the device sends join its end, and a read that the
transport answers with bytes takes them off its head and leaves the rest (R57, R187); no host access reaches the link
(R52), reset leaves the stream alone (R181), and a step that waits for the transport is not enabled (R189).
The model's choices are three. DESIGN CHOICE (notes/assumptions/15.md): bytes leave the stream otherwise than by a read of the
block only at its head, by a drain event; R186 and R188 say that they may leave, not how. DESIGN CHOICE
(notes/assumptions/2.md): events come from a schedule, and a step on an empty one is a turn without an answer. DESIGN CHOICE
(notes/assumptions/8.md): a failed read takes at most the bytes it asked for, off the head; R162 calls them unknown. -/
def Obligations.ResidueStaysInStream : Prop :=
  ∀ s t : State, step s = .next t →
    (∀ acc rest, s.inputs = .host acc :: rest →
      t.rxStream = s.rxStream ∧ t.txStream = s.txStream) ∧
    (∀ bytes rest, s.inputs = .device bytes :: rest →
      t.rxStream = s.rxStream ++ bytes ∧ t.txStream = s.txStream) ∧
    (∀ n rest, s.inputs = .drain n :: rest →
      t.rxStream = s.rxStream.drop n ∧ t.txStream = s.txStream) ∧
    (∀ n rest, s.inputs = .resetOn n :: rest →
      t.rxStream = s.rxStream ∧ (s.phase ≠ .tx → t.txStream = s.txStream)) ∧
    (∀ rest, s.inputs = .resetOff :: rest →
      t.rxStream = s.rxStream ∧ t.txStream = s.txStream) ∧
    ((s.inputs = [] ∨ ∃ rest, s.inputs = .turn none :: rest) →
      t.rxStream = s.rxStream ∧ t.txStream = s.txStream) ∧
    (∀ x rest, s.inputs = .turn x :: rest →
      (s.phase = .idle ∨ s.phase = .tx → t.rxStream = s.rxStream) ∧
      (s.phase ≠ .tx → t.txStream = s.txStream) ∧
      ∃ n ≤ 255, t.rxStream = s.rxStream.drop n)

/-- R29: the hardware never writes PBUF: only a host write or a reset changes what a byte of it holds. For a byte
that was written since the last reset this is R29; that a byte nothing has written reads as before, where R35 and U7 say
"unspecified", is the model's choice (DESIGN CHOICE, notes/assumptions/4.md). -/
def Obligations.HardwareNeverWritesPbuf : Prop :=
  ∀ s t : State, step s = .next t →
    (∀ a bs rest, s.inputs ≠ .host (.write a bs) :: rest ∧
      ∀ n, s.inputs ≠ .resetOn n :: rest) →
    ∀ i < 256, t.byteAt .pbuf i = s.byteAt .pbuf i

/-- R127, V-Q7: if the transport answers every call, every accepted descriptor, legal or not, completes within three turns
of the sequencer. -/
def Obligations.CompletesWithinThreeTurns : Prop :=
  ∀ (s : State) (d : Descriptor) (a1 a2 a3 : Answer) (rest : List Input),
    s.rst = false → s.phase = .idle →
    s.inputs = commandWrite d :: .turn (some a1) :: .turn (some a2) :: .turn (some a3) :: rest →
    ∃ t : State, Sys2Proof.core.run 4 s = .next t ∧ t.phase = .idle ∧ t.done = true ∧
      t.cmd = d ∧ t.inputs = rest ∧ t.status ∈ legalStatus

/-- R125: a whole READ exchange. With a valid response waiting, four steps send the request, consume exactly the response and
hand the payload to the host; whatever followed the response stays. In the clause on PBUF, that a byte nothing has written
since the last reset reads as before is the model's choice (DESIGN CHOICE, notes/assumptions/4.md). -/
def Obligations.ReadExchangeEndToEnd : Prop :=
  ∀ (s : State) (f : Byte) (p after : List Byte) (k1 k2 k3 : Nat) (rest : List Input),
    s.rst = false → s.phase = .idle → p.length ≤ 254 → 3 ≤ k2 → p.length + 1 ≤ k3 →
    s.rxStream = responseHeader p ++ responseSegment p ++ after →
    s.inputs = commandWrite (packDescriptor 1 0 (f.setWidth 16)) :: .turn (some (.ok k1)) ::
      .turn (some (.ok k2)) :: .turn (some (.ok k3)) :: rest →
    ∃ t : State, Sys2Proof.core.run 4 s = .next t ∧
      t.outcome = ⟨0, 0, 0, p⟩ ∧ t.rlen.toNat = p.length ∧ t.done = true ∧ t.phase = .idle ∧
      t.txStream = s.txStream ++ readRequest f ∧ t.rxStream = after ∧ t.inputs = rest ∧
      t.cmdOvr = s.cmdOvr ∧ ∀ i < 256, t.byteAt .pbuf i = s.byteAt .pbuf i

/-- R126: a whole WRITE exchange. With the acknowledgement waiting, three steps send the frame around `PBUF[0 .. LEN-1]`
and complete. A byte of PBUF that nothing has written goes out as its free value (DESIGN CHOICE, notes/assumptions/4.md). -/
def Obligations.WriteExchangeEndToEnd : Prop :=
  ∀ (s : State) (f : Byte) (len : BitVec 12) (after : List Byte) (k1 k2 : Nat) (rest : List Input),
    s.rst = false → s.phase = .idle → len.toNat ≤ 254 → 3 ≤ k2 →
    s.rxStream = [0x70, 0x00, 0x70] ++ after →
    s.inputs = commandWrite (packDescriptor 2 len (f.setWidth 16)) :: .turn (some (.ok k1)) ::
      .turn (some (.ok k2)) :: rest →
    ∃ t : State, Sys2Proof.core.run 3 s = .next t ∧
      t.outcome = ⟨0, 0, 0, []⟩ ∧ t.done = true ∧ t.phase = .idle ∧
      t.txStream = s.txStream ++ writeRequest f (s.load .pbuf len.toNat) ∧
      t.rxStream = after ∧ t.inputs = rest ∧ t.mem = s.mem

/-- R33: no protocol state survives an operation. Two idle blocks that agree on `PBUF[0 .. LEN-1]`, whatever else earlier
operations left in their registers and buffers, send the same bytes and report the same outcome for the same descriptor
and the same answers of the transport. That two blocks can agree on a PBUF byte nothing has written, and that the frame
carries the value they agree on, is the model's choice (DESIGN CHOICE, notes/assumptions/4.md): R35 and U7 leave such a
byte any value. For written bytes the premise is R33's own. -/
def Obligations.NoProtocolStateSurvives : Prop :=
  ∀ (s1 s2 : State) (d : Descriptor) (a1 a2 a3 : Option Answer),
    s1.rst = false → s2.rst = false → s1.phase = .idle → s2.phase = .idle →
    (∀ i < 256, i < (lenField d).toNat → s1.byteAt .pbuf i = s2.byteAt .pbuf i) →
    s1.rxStream = s2.rxStream →
    s1.inputs = [commandWrite d, .turn a1, .turn a2, .turn a3] → s2.inputs = s1.inputs →
    ∃ (t1 t2 : State) (sent : List Byte),
      Sys2Proof.core.run 4 s1 = .next t1 ∧ Sys2Proof.core.run 4 s2 = .next t2 ∧
      t1.phase = t2.phase ∧ t1.done = t2.done ∧ t1.outcome = t2.outcome ∧
      t1.rxStream = t2.rxStream ∧
      t1.txStream = s1.txStream ++ sent ∧ t2.txStream = s2.txStream ++ sent
end

