-- ==== Sys2Proof/Laws/Codec.lean ====
section
/-! SUPPORT. The laws of the pure functions: the checksum, the builders and the parsers, and the decoder and encoder. -/

namespace Sys2Proof.Machine

/-! ### The checksum (R100) -/

@[simp] theorem checksum_nil : checksum [] = 0 := rfl

theorem checksum_cons (b : Byte) (s : List Byte) : checksum (b :: s) = b + checksum s := by
  apply BitVec.eq_of_toNat_eq
  simp [checksum, Nat.add_mod]

/-- The checksum of a concatenation is the sum of the checksums. -/
theorem checksum_append (s t : List Byte) : checksum (s ++ t) = checksum s + checksum t := by
  induction s with
  | nil => simp
  | cons b s ih => rw [List.cons_append, checksum_cons, checksum_cons, ih, BitVec.add_assoc]

/-- The incremental form of R100: an 8-bit accumulator that adds each byte. -/
theorem checksum_eq_foldl (s : List Byte) : checksum s = s.foldl (· + ·) 0 := by
  have h : ∀ acc : Byte, s.foldl (· + ·) acc = acc + checksum s := by
    induction s with
    | nil => simp
    | cons b s ih => intro acc; rw [List.foldl_cons, ih, checksum_cons, BitVec.add_assoc]
  rw [h 0]; simp

/-- Replacing one byte by a different one changes the checksum (R111). -/
theorem checksum_set_ne {s : List Byte} {i : Nat} (hi : i < s.length) {b : Byte} (hb : b ≠ s[i]) :
    checksum (s.set i b) ≠ checksum s := by
  induction s generalizing i with
  | nil => simp at hi
  | cons c s ih =>
    cases i with
    | zero =>
      simp only [List.set_cons_zero, checksum_cons]
      intro h
      exact hb (by simpa using add_right_cancel h)
    | succ i =>
      simp only [List.set_cons_succ, checksum_cons]
      intro h
      exact ih (i := i) (by simpa using hi) (by simpa using hb) (add_left_cancel h)

@[simp] theorem sealFrame_length (body : List Byte) : (sealFrame body).length = body.length + 1 := by
  simp [sealFrame]

/-! ### The builders (R103, R104) -/

theorem readFrame_eq (f : Byte) : readFrame f = [0x83, 0x00, f, 0xFF, 0xFF, 0x81 + f] := by
  simp only [readFrame, sealFrame, hdrRead, category, filler, checksum_cons, checksum_nil,
    List.cons_append, List.nil_append]
  congr 6
  bv_omega

@[simp] theorem readFrame_length (f : Byte) : (readFrame f).length = 6 := rfl

@[simp] theorem writeFrame_length (f : Byte) (p : List Byte) :
    (writeFrame f p).length = p.length + 5 := by
  simp [writeFrame]

theorem buildRead_cases {f : BitVec 16} {r : Except Raise (List Byte)} (h : buildRead f = r) :
    (255 < f.toNat ∧ r = .error ⟨.encRange, 0⟩) ∨
    (f.toNat ≤ 255 ∧ r = .ok (readFrame (f.setWidth 8))) := by
  subst h
  unfold buildRead
  split
  · exact .inl ⟨by assumption, rfl⟩
  · exact .inr ⟨by omega, rfl⟩

theorem buildWrite_cases {f : BitVec 16} {p : List Byte} {r : Except Raise (List Byte)}
    (h : buildWrite f p = r) :
    (255 < f.toNat ∧ r = .error ⟨.encRange, 0⟩) ∨
    (f.toNat ≤ 255 ∧ 254 < p.length ∧ r = .error ⟨.encSize, 0⟩) ∨
    (f.toNat ≤ 255 ∧ p.length ≤ 254 ∧ r = .ok (writeFrame (f.setWidth 8) p)) := by
  subst h
  unfold buildWrite
  split
  · exact .inl ⟨by assumption, rfl⟩
  · split
    · exact .inr (.inl ⟨by omega, by omega, rfl⟩)
    · exact .inr (.inr ⟨by omega, by omega, rfl⟩)

/-! ### The parsers (R105 to R108) -/

/-- Every way `ANSWER` can end (R105). -/
theorem answerCheck_cases (a : Byte) :
    (a = 0 ∧ answerCheck a = .ok ()) ∨
    (a ≠ 0 ∧ ∃ e, e ∈ [Error.devLimitOver, .devLimitUnder, .devCanceled, .devParse, .devUnrecognized] ∧
      answerCheck a = .error ⟨e, a⟩) := by
  by_cases h0 : a = 0
  · exact .inl ⟨h0, by simp [answerCheck, h0]⟩
  · refine .inr ⟨h0, ?_⟩
    unfold answerCheck
    rw [if_neg h0]
    split
    · exact ⟨_, by simp, rfl⟩
    · split
      · exact ⟨_, by simp, rfl⟩
      · split
        · exact ⟨_, by simp, rfl⟩
        · split
          · exact ⟨_, by simp, rfl⟩
          · exact ⟨_, by simp, rfl⟩

theorem answerCheck_ok_iff (a : Byte) : answerCheck a = .ok () ↔ a = 0 := by
  rcases answerCheck_cases a with ⟨h, h'⟩ | ⟨h, e, -, h'⟩
  · exact ⟨fun _ => h, fun _ => h'⟩
  · rw [h']
    exact ⟨fun hc => (by cases hc), fun hc => absurd hc h⟩

/-- `PARSE_READ_HDR` accepts exactly the three-byte headers `70 00 L`, and returns `L` (R106). -/
theorem parseReadHdr_ok_iff (h : List Byte) (l : Byte) :
    parseReadHdr h = .ok l ↔ h = [hdrResp, 0, l] := by
  constructor
  · intro hp
    unfold parseReadHdr at hp
    split at hp
    · rename_i h0 h1 h2
      split at hp
      · cases hp
      · rename_i hh
        split at hp
        · cases hp
        · rename_i u ha
          have := (answerCheck_ok_iff h1).mp ha
          simp_all
    · cases hp
  · rintro rfl
    rfl

/-- `PARSE_ACK` accepts exactly `70 00 70` (R108). -/
theorem parseAck_ok_iff (a : List Byte) : parseAck a = .ok () ↔ a = [hdrResp, 0, hdrResp] := by
  constructor
  · intro hp
    unfold parseAck at hp
    split at hp
    · rename_i a0 a1 a2
      split at hp
      · cases hp
      · split at hp
        · cases hp
        · rename_i h0 hc
          have h1 := (answerCheck_ok_iff a1).mp hp
          have h0 : a0 = hdrResp := by simpa using h0
          subst h0 h1
          have : checksum [hdrResp, 0] = hdrResp := by decide
          rw [this] at hc
          simp_all
    · cases hp
  · rintro rfl
    decide

/-- `PARSE_READ_BODY` accepts exactly a payload closed by the checksum of the whole frame, of the declared length
(R107). -/
theorem parseReadBody_ok_iff (h seg p : List Byte) (hl : 1 ≤ (h.getD 2 0).toNat) :
    parseReadBody h seg = .ok p ↔
      p.length + 1 = (h.getD 2 0).toNat ∧ seg = p ++ [checksum (h ++ p)] := by
  constructor
  · intro hp
    simp only [parseReadBody] at hp
    split at hp
    · cases hp
    · split at hp
      · cases hp
      · rename_i hlen hc
        have hlen : seg.length = (h.getD 2 0).toNat := by simpa using hlen
        have hp' : List.take ((h.getD 2 0).toNat - 1) seg = p := by simpa using hp
        have hpl : p.length + 1 = (h.getD 2 0).toNat := by
          rw [← hp', List.length_take]; omega
        refine ⟨hpl, ?_⟩
        have hc : checksum (h ++ p) = seg.getD ((h.getD 2 0).toNat - 1) 0 := by
          rw [← hp']; simpa using hc
        rw [hc]
        have hlt : (h.getD 2 0).toNat - 1 < seg.length := by omega
        rw [List.getD_eq_getElem _ _ hlt]
        conv_lhs => rw [← List.take_append_drop ((h.getD 2 0).toNat - 1) seg, hp']
        congr 1
        rw [List.drop_eq_getElem_cons hlt, List.drop_eq_nil_of_le (by omega)]
  · rintro ⟨hpl, rfl⟩
    have h1 : (h.getD 2 0).toNat - 1 = p.length := by omega
    simp only [parseReadBody, h1]
    rw [if_neg (by simp [hpl]), List.take_left, List.getD_eq_getElem _ _ (by simp),
      if_neg (by simp)]

/-- The code of an error is one of the 18 of R84, never that of success. -/
theorem Error.code_legal (e : Error) : e.code ∈ legalStatus ∧ e.code ≠ 0 := by
  cases e <;> decide

/-! ### The decoder and the encoder (R54, R78, R80) -/

theorem ofLittleEndian_littleEndian (d : Descriptor) :
    ofLittleEndian (d.extractLsb' 0 8) (d.extractLsb' 8 8) (d.extractLsb' 16 8)
      (d.extractLsb' 24 8) = d := by
  apply BitVec.eq_of_getLsbD_eq
  intro i hi
  simp only [ofLittleEndian, BitVec.getLsbD_append, BitVec.getLsbD_extractLsb']
  by_cases h1 : i < 8
  · simp [h1]
  · by_cases h2 : i - 8 < 8
    · simp [h1, h2]; congr 1; omega
    · by_cases h3 : i - 8 - 8 < 8
      · simp [h1, h2, h3]; congr 1; omega
      · have : i - 8 - 8 - 8 < 8 := by omega
        simp [h1, h2, h3, this]; congr 1; omega

/-- The decoder reads a descriptor word through its four bytes (R54). -/
theorem decode_littleEndian (d : Descriptor) : decode (littleEndian d) = decodeWord d := by
  simp only [littleEndian, decode, ofLittleEndian_littleEndian]

theorem opField_pack (op : BitVec 4) (len : BitVec 12) (arg : BitVec 16) :
    opField (packDescriptor op len arg) = op := by
  apply BitVec.eq_of_getLsbD_eq
  intro i hi
  simp only [opField, packDescriptor, BitVec.getLsbD_extractLsb', BitVec.getLsbD_append]
  have h1 : ¬ 28 + i < 16 := by omega
  have h2 : ¬ 28 + i - 16 < 12 := by omega
  simp only [h1, h2, if_false, hi, decide_true, Bool.true_and]
  congr 1; omega

theorem lenField_pack (op : BitVec 4) (len : BitVec 12) (arg : BitVec 16) :
    lenField (packDescriptor op len arg) = len := by
  apply BitVec.eq_of_getLsbD_eq
  intro i hi
  simp only [lenField, packDescriptor, BitVec.getLsbD_extractLsb', BitVec.getLsbD_append]
  have h1 : ¬ 16 + i < 16 := by omega
  have h2 : 16 + i - 16 < 12 := by omega
  simp [hi, h1]

theorem argField_pack (op : BitVec 4) (len : BitVec 12) (arg : BitVec 16) :
    argField (packDescriptor op len arg) = arg := by
  apply BitVec.eq_of_getLsbD_eq
  intro i hi
  simp only [argField, packDescriptor, BitVec.getLsbD_extractLsb', BitVec.getLsbD_append]
  simp [hi]

theorem pack_fields (d : Descriptor) :
    packDescriptor (opField d) (lenField d) (argField d) = d := by
  apply BitVec.eq_of_getLsbD_eq
  intro i hi
  simp only [opField, lenField, argField, packDescriptor, BitVec.getLsbD_extractLsb',
    BitVec.getLsbD_append]
  by_cases h1 : i < 16
  · simp [h1]
  · by_cases h2 : i - 16 < 12
    · simp [h1, h2]; congr 1; omega
    · have : i - 16 - 12 < 4 := by omega
      simp [h1, h2, this]; congr 1; omega

/-- Every way the operation code map can answer (R80, R81). -/
theorem decodeFields_ok {op : BitVec 4} {len : BitVec 12} {arg : BitVec 16} {i : Instr}
    (h : decodeFields op len arg = .ok i) :
    op = opCode i ∧ packDescriptor op len arg = descriptor i := by
  unfold decodeFields at h
  split at h <;> first
    | (rename_i ho
       have ho' : op = BitVec.ofNat 4 op.toNat := by simp
       rw [ho] at ho'
       cases h
       subst ho'
       exact ⟨rfl, rfl⟩)
    | cases h

/-- A descriptor that decodes is the one its operation encodes to. -/
theorem descriptor_of_decodeWord {d : Descriptor} {i : Instr} (h : decodeWord d = .ok i) :
    descriptor i = d := by
  have := (decodeFields_ok h).2
  rw [← this, pack_fields]

@[simp] theorem opField_descriptor (i : Instr) : opField (descriptor i) = opCode i := by
  cases i <;> exact opField_pack _ _ _

end Sys2Proof.Machine
end

