-- ==== Sys2Proof/Laws/Operands.lean ====
section
/-! SUPPORT. The laws of the operand forms: the configuration's constraints, the enumeration tables, the input code and its
two nibbles, and everything each operation's request and payload decoding can answer. -/

namespace Sys2Proof.Machine

/-- The instance's configuration meets R8's constraints. -/
theorem config_legal : Config.cfg.Legal := by
  refine ⟨?_, ?_⟩
  · by_cases h : PicLegal Config.rawPicCode
    · simpa only [Config.cfg, if_pos h] using h
    · simp only [Config.cfg, if_neg h]; decide
  · by_cases h : InpLegal Config.rawInpCode
    · simpa only [Config.cfg, if_pos h] using h
    · simp only [Config.cfg, if_neg h]; decide

theorem defaultCfg_legal : Cfg.default.Legal := by decide

theorem mem_inputModes (m : InputMode) : m ∈ InputMode.all := by cases m <;> decide

theorem mem_pictureModes (m : PictureMode) : m ∈ PictureMode.all := by cases m <;> decide

/-- The index of a mode is its place in the table (R89). -/
theorem inputIndex_eq {n : Nat} {m : InputMode} (h : InputMode.all[n]? = some m) :
    inputIndex m = n := by
  have hn : n < 13 := by
    have := List.getElem?_eq_some_iff.mp h
    exact this.1
  interval_cases n <;> cases h <;> rfl

theorem inputIndex_le (m : InputMode) : inputIndex m ≤ 12 := by cases m <;> decide

/-- Legal input codes tell the modes apart (R8). -/
theorem inpCode_injective {c : Cfg} (h : c.Legal) {m m' : InputMode}
    (he : c.inpCode m = c.inpCode m') : m = m' :=
  List.inj_on_of_nodup_map h.2.1 (mem_inputModes m) (mem_inputModes m') he

/-- A code of a mode decodes to that mode (R142: the index is unique). -/
theorem inputOfCode_of_code {c : Cfg} (h : c.Legal) (m : InputMode) :
    inputOfCode c (c.inpCode m) = some m := by
  unfold inputOfCode
  cases hf : InputMode.all.find? (fun m' => c.inpCode m' == c.inpCode m) with
  | none =>
    have := List.find?_eq_none.mp hf m (mem_inputModes m)
    simp at this
  | some m' =>
    have := List.find?_some hf
    have hm : m' = m := inpCode_injective h (by simpa using this)
    rw [hm]

/-- A byte that is no mode's code decodes to none (R142: no default). -/
theorem inputOfCode_none {c : Cfg} {b : Byte} (h : ∀ m, c.inpCode m ≠ b) :
    inputOfCode c b = none := by
  unfold inputOfCode
  exact List.find?_eq_none.mpr fun m _ => by simpa using h m

theorem inputOfCode_some {c : Cfg} {b : Byte} {m : InputMode} (h : inputOfCode c b = some m) :
    c.inpCode m = b := by
  have := List.find?_some h
  simpa using this

/-- The received code in arithmetic terms (R87). -/
theorem inputCodeOf_toNat (b0 b1 : Byte) :
    (inputCodeOf b0 b1).toNat = b0.toNat % 16 * 16 + b1.toNat % 16 := by
  have : inputCodeOf b0 b1 = b0.extractLsb' 0 4 ++ b1.extractLsb' 0 4 := by
    apply BitVec.eq_of_getLsbD_eq
    intro i hi
    simp only [inputCodeOf, BitVec.getLsbD_or, BitVec.getLsbD_shiftLeft, BitVec.getLsbD_and,
      BitVec.getLsbD_append, BitVec.getLsbD_extractLsb']
    interval_cases i <;> simp
  rw [this, BitVec.toNat_append]
  simp only [BitVec.extractLsb'_toNat, Nat.shiftRight_zero]
  rw [Nat.shiftLeft_eq, ← Nat.shiftLeft_eq, ← Nat.shiftLeft_add_eq_or_of_lt (by omega),
    Nat.shiftLeft_eq]

/-- The two payload bytes of a code in arithmetic terms (R87). -/
theorem inputPayload_toNat (c : Byte) :
    ((c >>> 4) &&& 0x0F : Byte).toNat = c.toNat / 16 ∧ (c &&& 0x0F : Byte).toNat = c.toNat % 16 := by
  have hc : c.toNat < 256 := c.isLt
  constructor
  · rw [BitVec.toNat_and, BitVec.toNat_ushiftRight, Nat.shiftRight_eq_div_pow]
    change _ &&& 2 ^ 4 - 1 = _
    rw [Nat.and_two_pow_sub_one_eq_mod]; omega
  · rw [BitVec.toNat_and]
    change _ &&& 2 ^ 4 - 1 = _
    rw [Nat.and_two_pow_sub_one_eq_mod]

/-- Everything the decoding of a power payload can answer (R137). -/
theorem powerOf_cases (p : List Byte) :
    (∃ b, p = [b] ∧ (b = 0 ∨ b = 1) ∧ powerOf p = .ok b) ∨
    (∃ b, p = [b] ∧ b ≠ 0 ∧ b ≠ 1 ∧ powerOf p = .error ⟨.decPowerValue, b⟩) ∨
    (p.length ≠ 1 ∧ powerOf p = .error ⟨.decPayloadLen, BitVec.ofNat 8 p.length⟩) := by
  match p with
  | [] => exact .inr (.inr ⟨by simp, rfl⟩)
  | [b] =>
    by_cases h0 : b = 0
    · exact .inl ⟨b, rfl, .inl h0, by subst h0; rfl⟩
    · by_cases h1 : b = 1
      · exact .inl ⟨b, rfl, .inr h1, by subst h1; rfl⟩
      · refine .inr (.inl ⟨b, rfl, h0, h1, ?_⟩)
        simp only [powerOf]
        rw [if_neg h0, if_neg h1]
  | _ :: _ :: _ => exact .inr (.inr ⟨by simp, rfl⟩)

/-- Everything the decoding of an input payload can answer (R142). -/
theorem inputOf_cases (c : Cfg) (p : List Byte) :
    (∃ b0 b1 m, p = [b0, b1] ∧ c.inpCode m = inputCodeOf b0 b1 ∧
      inputOf c p = .ok (BitVec.ofNat 8 (inputIndex m), inputCodeOf b0 b1)) ∨
    (∃ b0 b1, p = [b0, b1] ∧ inputOfCode c (inputCodeOf b0 b1) = none ∧
      inputOf c p = .error ⟨.decInputCode, inputCodeOf b0 b1⟩) ∨
    (p.length ≠ 2 ∧ inputOf c p = .error ⟨.decPayloadLen, BitVec.ofNat 8 p.length⟩) := by
  match p with
  | [] => exact .inr (.inr ⟨by simp, rfl⟩)
  | [_] => exact .inr (.inr ⟨by simp, rfl⟩)
  | [b0, b1] =>
    cases h : inputOfCode c (inputCodeOf b0 b1) with
    | some m => exact .inl ⟨b0, b1, m, rfl, inputOfCode_some h, by simp only [inputOf, h]⟩
    | none => exact .inr (.inl ⟨b0, b1, rfl, h, by simp only [inputOf, h]⟩)
  | _ :: _ :: _ :: _ => exact .inr (.inr ⟨by simp, rfl⟩)

/-- Everything a request can answer (R120): an encoding error, or a frame of 5 to 259 bytes closed by its checksum. -/
theorem requestOf_cases (i : Instr) (s : State) :
    (∃ e ∈ [Error.encRange, .encSize, .encIllegalArg], requestOf i s = .error ⟨e, 0⟩) ∨
    (∃ body : List Byte, 4 ≤ body.length ∧ body.length ≤ 258 ∧
      requestOf i s = .ok (sealFrame body)) := by
  have hw : ∀ (f : Byte) (p : List Byte), p.length ≤ 254 → ∃ body : List Byte,
      4 ≤ body.length ∧ body.length ≤ 258 ∧ writeFrame f p = sealFrame body := fun f p h =>
    ⟨[hdrWrite, category, f, BitVec.ofNat 8 (p.length + 1)] ++ p, by simp, by simp; omega, rfl⟩
  have hr : ∀ f : Byte, ∃ body : List Byte,
      4 ≤ body.length ∧ body.length ≤ 258 ∧ readFrame f = sealFrame body := fun f =>
    ⟨[hdrRead, category, f, filler, filler], by simp, by simp, rfl⟩
  cases i with
  | read len func =>
    simp only [requestOf, requestRead]
    split
    · rcases buildRead_cases (f := func) rfl with ⟨-, h⟩ | ⟨-, h⟩
      · exact .inl ⟨.encRange, by simp, h⟩
      · obtain ⟨b, h1, h2, h3⟩ := hr (func.setWidth 8)
        exact .inr ⟨b, h1, h2, by rw [h, h3]⟩
    · exact .inl ⟨.encIllegalArg, by simp, rfl⟩
  | write len func =>
    simp only [requestOf, requestWrite]
    split
    · exact .inl ⟨.encRange, by simp, rfl⟩
    · split
      · exact .inl ⟨.encSize, by simp, rfl⟩
      · rcases buildWrite_cases (f := func) (p := s.load .pbuf len.toNat) rfl with
          ⟨-, h⟩ | ⟨-, -, h⟩ | ⟨-, hl, h⟩
        · exact .inl ⟨.encRange, by simp, h⟩
        · exact .inl ⟨.encSize, by simp, h⟩
        · obtain ⟨b, h1, h2, h3⟩ := hw (func.setWidth 8) _ hl
          exact .inr ⟨b, h1, h2, by rw [h, h3]⟩
  | getPower len arg =>
    simp only [requestOf, requestGetPower]
    split
    · obtain ⟨b, h1, h2, h3⟩ := hr Config.cfg.funcPower
      exact .inr ⟨b, h1, h2, by rw [h3]⟩
    · exact .inl ⟨.encIllegalArg, by simp, rfl⟩
  | setPower len arg =>
    simp only [requestOf, requestSetPower]
    split
    · obtain ⟨b, h1, h2, h3⟩ := hw Config.cfg.funcPower [arg.setWidth 8] (by simp)
      exact .inr ⟨b, h1, h2, by rw [h3]⟩
    · exact .inl ⟨.encIllegalArg, by simp, rfl⟩
  | setPicture len arg =>
    simp only [requestOf, requestSetPicture]
    split
    · split
      · rename_i m _
        obtain ⟨b, h1, h2, h3⟩ :=
          hw Config.cfg.funcPicture [Config.cfg.subcmdDirect, Config.cfg.picCode m] (by simp)
        exact .inr ⟨b, h1, h2, by rw [h3]⟩
      · exact .inl ⟨.encIllegalArg, by simp, rfl⟩
    · exact .inl ⟨.encIllegalArg, by simp, rfl⟩
  | getInput len arg =>
    simp only [requestOf, requestGetInput]
    split
    · obtain ⟨b, h1, h2, h3⟩ := hr Config.cfg.funcInput
      exact .inr ⟨b, h1, h2, by rw [h3]⟩
    · exact .inl ⟨.encIllegalArg, by simp, rfl⟩
  | setInput len arg =>
    simp only [requestOf, requestSetInput]
    split
    · split
      · rename_i m _
        obtain ⟨b, h1, h2, h3⟩ :=
          hw Config.cfg.funcInput (inputPayload (Config.cfg.inpCode m)) (by simp [inputPayload])
        exact .inr ⟨b, h1, h2, by rw [h3]⟩
      · exact .inl ⟨.encIllegalArg, by simp, rfl⟩
    · exact .inl ⟨.encIllegalArg, by simp, rfl⟩

/-- Everything a DECODE can do (R123): nothing, write RESULT or RESULT and INFO, or raise a class 6 error. -/
theorem decodeOf_cases (i : Instr) (p : List Byte) (s : State) :
    (∃ r n, decodeOf i p s = .ok (s.setResultInfo r n) ∧ (r = s.result ∨ r.toNat ≤ 12)) ∨
    (∃ e ∈ [Error.decPowerValue, .decInputCode, .decPayloadLen], ∃ n,
      decodeOf i p s = .error ⟨e, n⟩) := by
  cases i with
  | getPower len arg =>
    simp only [decodeOf, decodePower]
    rcases powerOf_cases p with ⟨b, -, hb, h⟩ | ⟨b, -, -, -, h⟩ | ⟨-, h⟩
    · exact .inl ⟨b, s.info, by rw [h]; rfl, by rcases hb with rfl | rfl <;> simp⟩
    · exact .inr ⟨.decPowerValue, by simp, _, by rw [h]⟩
    · exact .inr ⟨.decPayloadLen, by simp, _, by rw [h]⟩
  | getInput len arg =>
    simp only [decodeOf, decodeInput]
    rcases inputOf_cases Config.cfg p with ⟨b0, b1, m, -, -, h⟩ | ⟨b0, b1, -, -, h⟩ | ⟨-, h⟩
    · refine .inl ⟨_, _, by rw [h], .inr ?_⟩
      have := inputIndex_le m
      rw [BitVec.toNat_ofNat]; omega
    · exact .inr ⟨.decInputCode, by simp, _, by rw [h]⟩
    · exact .inr ⟨.decPayloadLen, by simp, _, by rw [h]⟩
  | read => exact .inl ⟨s.result, s.info, rfl, .inl rfl⟩
  | write => exact .inl ⟨s.result, s.info, rfl, .inl rfl⟩
  | setPower => exact .inl ⟨s.result, s.info, rfl, .inl rfl⟩
  | setPicture => exact .inl ⟨s.result, s.info, rfl, .inl rfl⟩
  | setInput => exact .inl ⟨s.result, s.info, rfl, .inl rfl⟩

end Sys2Proof.Machine
end

