-- ==== Sys2Proof/Laws/State.lean ====
section
/-! SUPPORT. Beside the state: one lemma per field per named update, each true by `rfl`, so that no later proof unfolds a
record update. -/

namespace Sys2Proof.Machine

/-! ### `State.clearFlags` -/

@[simp] theorem State.clearFlags_cmd (w : Byte) (s : State) :
    (State.clearFlags w s).cmd = s.cmd := rfl
@[simp] theorem State.clearFlags_status (w : Byte) (s : State) :
    (State.clearFlags w s).status = s.status := rfl
@[simp] theorem State.clearFlags_info (w : Byte) (s : State) :
    (State.clearFlags w s).info = s.info := rfl
@[simp] theorem State.clearFlags_result (w : Byte) (s : State) :
    (State.clearFlags w s).result = s.result := rfl
@[simp] theorem State.clearFlags_rlen (w : Byte) (s : State) :
    (State.clearFlags w s).rlen = s.rlen := rfl
@[simp] theorem State.clearFlags_done (w : Byte) (s : State) :
    (State.clearFlags w s).done = (s.done && !w.getLsbD 1) := rfl
@[simp] theorem State.clearFlags_cmdOvr (w : Byte) (s : State) :
    (State.clearFlags w s).cmdOvr = (s.cmdOvr && !w.getLsbD 2) := rfl
@[simp] theorem State.clearFlags_phase (w : Byte) (s : State) :
    (State.clearFlags w s).phase = s.phase := rfl
@[simp] theorem State.clearFlags_opl (w : Byte) (s : State) :
    (State.clearFlags w s).opl = s.opl := rfl
@[simp] theorem State.clearFlags_txlen (w : Byte) (s : State) :
    (State.clearFlags w s).txlen = s.txlen := rfl
@[simp] theorem State.clearFlags_mem (w : Byte) (s : State) :
    (State.clearFlags w s).mem = s.mem := rfl
@[simp] theorem State.clearFlags_txbuf (w : Byte) (s : State) :
    (State.clearFlags w s).txbuf = s.txbuf := rfl
@[simp] theorem State.clearFlags_hdr (w : Byte) (s : State) :
    (State.clearFlags w s).hdr = s.hdr := rfl
@[simp] theorem State.clearFlags_rst (w : Byte) (s : State) :
    (State.clearFlags w s).rst = s.rst := rfl
@[simp] theorem State.clearFlags_txStream (w : Byte) (s : State) :
    (State.clearFlags w s).txStream = s.txStream := rfl
@[simp] theorem State.clearFlags_rxStream (w : Byte) (s : State) :
    (State.clearFlags w s).rxStream = s.rxStream := rfl
@[simp] theorem State.clearFlags_answer (w : Byte) (s : State) :
    (State.clearFlags w s).answer = s.answer := rfl
@[simp] theorem State.clearFlags_inputs (w : Byte) (s : State) :
    (State.clearFlags w s).inputs = s.inputs := rfl
@[simp] theorem State.clearFlags_rdata (w : Byte) (s : State) :
    (State.clearFlags w s).rdata = s.rdata := rfl
@[simp] theorem State.clearFlags_resets (w : Byte) (s : State) :
    (State.clearFlags w s).resets = s.resets := rfl
@[simp] theorem State.clearFlags_freeReads (w : Byte) (s : State) :
    (State.clearFlags w s).freeReads = s.freeReads := rfl

/-! ### `State.setOverrun` -/

@[simp] theorem State.setOverrun_cmd (s : State) :
    (State.setOverrun s).cmd = s.cmd := rfl
@[simp] theorem State.setOverrun_status (s : State) :
    (State.setOverrun s).status = s.status := rfl
@[simp] theorem State.setOverrun_info (s : State) :
    (State.setOverrun s).info = s.info := rfl
@[simp] theorem State.setOverrun_result (s : State) :
    (State.setOverrun s).result = s.result := rfl
@[simp] theorem State.setOverrun_rlen (s : State) :
    (State.setOverrun s).rlen = s.rlen := rfl
@[simp] theorem State.setOverrun_done (s : State) :
    (State.setOverrun s).done = s.done := rfl
@[simp] theorem State.setOverrun_cmdOvr (s : State) :
    (State.setOverrun s).cmdOvr = true := rfl
@[simp] theorem State.setOverrun_phase (s : State) :
    (State.setOverrun s).phase = s.phase := rfl
@[simp] theorem State.setOverrun_opl (s : State) :
    (State.setOverrun s).opl = s.opl := rfl
@[simp] theorem State.setOverrun_txlen (s : State) :
    (State.setOverrun s).txlen = s.txlen := rfl
@[simp] theorem State.setOverrun_mem (s : State) :
    (State.setOverrun s).mem = s.mem := rfl
@[simp] theorem State.setOverrun_txbuf (s : State) :
    (State.setOverrun s).txbuf = s.txbuf := rfl
@[simp] theorem State.setOverrun_hdr (s : State) :
    (State.setOverrun s).hdr = s.hdr := rfl
@[simp] theorem State.setOverrun_rst (s : State) :
    (State.setOverrun s).rst = s.rst := rfl
@[simp] theorem State.setOverrun_txStream (s : State) :
    (State.setOverrun s).txStream = s.txStream := rfl
@[simp] theorem State.setOverrun_rxStream (s : State) :
    (State.setOverrun s).rxStream = s.rxStream := rfl
@[simp] theorem State.setOverrun_answer (s : State) :
    (State.setOverrun s).answer = s.answer := rfl
@[simp] theorem State.setOverrun_inputs (s : State) :
    (State.setOverrun s).inputs = s.inputs := rfl
@[simp] theorem State.setOverrun_rdata (s : State) :
    (State.setOverrun s).rdata = s.rdata := rfl
@[simp] theorem State.setOverrun_resets (s : State) :
    (State.setOverrun s).resets = s.resets := rfl
@[simp] theorem State.setOverrun_freeReads (s : State) :
    (State.setOverrun s).freeReads = s.freeReads := rfl

/-! ### `State.withdrawAnswer` -/

@[simp] theorem State.withdrawAnswer_cmd (s : State) :
    (State.withdrawAnswer s).cmd = s.cmd := rfl
@[simp] theorem State.withdrawAnswer_status (s : State) :
    (State.withdrawAnswer s).status = s.status := rfl
@[simp] theorem State.withdrawAnswer_info (s : State) :
    (State.withdrawAnswer s).info = s.info := rfl
@[simp] theorem State.withdrawAnswer_result (s : State) :
    (State.withdrawAnswer s).result = s.result := rfl
@[simp] theorem State.withdrawAnswer_rlen (s : State) :
    (State.withdrawAnswer s).rlen = s.rlen := rfl
@[simp] theorem State.withdrawAnswer_done (s : State) :
    (State.withdrawAnswer s).done = s.done := rfl
@[simp] theorem State.withdrawAnswer_cmdOvr (s : State) :
    (State.withdrawAnswer s).cmdOvr = s.cmdOvr := rfl
@[simp] theorem State.withdrawAnswer_phase (s : State) :
    (State.withdrawAnswer s).phase = s.phase := rfl
@[simp] theorem State.withdrawAnswer_opl (s : State) :
    (State.withdrawAnswer s).opl = s.opl := rfl
@[simp] theorem State.withdrawAnswer_txlen (s : State) :
    (State.withdrawAnswer s).txlen = s.txlen := rfl
@[simp] theorem State.withdrawAnswer_mem (s : State) :
    (State.withdrawAnswer s).mem = s.mem := rfl
@[simp] theorem State.withdrawAnswer_txbuf (s : State) :
    (State.withdrawAnswer s).txbuf = s.txbuf := rfl
@[simp] theorem State.withdrawAnswer_hdr (s : State) :
    (State.withdrawAnswer s).hdr = s.hdr := rfl
@[simp] theorem State.withdrawAnswer_rst (s : State) :
    (State.withdrawAnswer s).rst = s.rst := rfl
@[simp] theorem State.withdrawAnswer_txStream (s : State) :
    (State.withdrawAnswer s).txStream = s.txStream := rfl
@[simp] theorem State.withdrawAnswer_rxStream (s : State) :
    (State.withdrawAnswer s).rxStream = s.rxStream := rfl
@[simp] theorem State.withdrawAnswer_answer (s : State) :
    (State.withdrawAnswer s).answer = none := rfl
@[simp] theorem State.withdrawAnswer_inputs (s : State) :
    (State.withdrawAnswer s).inputs = s.inputs := rfl
@[simp] theorem State.withdrawAnswer_rdata (s : State) :
    (State.withdrawAnswer s).rdata = s.rdata := rfl
@[simp] theorem State.withdrawAnswer_resets (s : State) :
    (State.withdrawAnswer s).resets = s.resets := rfl
@[simp] theorem State.withdrawAnswer_freeReads (s : State) :
    (State.withdrawAnswer s).freeReads = s.freeReads := rfl

/-! ### `State.enterError` -/

@[simp] theorem State.enterError_cmd (r : Raise) (s : State) :
    (State.enterError r s).cmd = s.cmd := rfl
@[simp] theorem State.enterError_status (r : Raise) (s : State) :
    (State.enterError r s).status = r.err.code := rfl
@[simp] theorem State.enterError_info (r : Raise) (s : State) :
    (State.enterError r s).info = r.info := rfl
@[simp] theorem State.enterError_result (r : Raise) (s : State) :
    (State.enterError r s).result = s.result := rfl
@[simp] theorem State.enterError_rlen (r : Raise) (s : State) :
    (State.enterError r s).rlen = s.rlen := rfl
@[simp] theorem State.enterError_done (r : Raise) (s : State) :
    (State.enterError r s).done = true := rfl
@[simp] theorem State.enterError_cmdOvr (r : Raise) (s : State) :
    (State.enterError r s).cmdOvr = s.cmdOvr := rfl
@[simp] theorem State.enterError_phase (r : Raise) (s : State) :
    (State.enterError r s).phase = .idle := rfl
@[simp] theorem State.enterError_opl (r : Raise) (s : State) :
    (State.enterError r s).opl = s.opl := rfl
@[simp] theorem State.enterError_txlen (r : Raise) (s : State) :
    (State.enterError r s).txlen = s.txlen := rfl
@[simp] theorem State.enterError_mem (r : Raise) (s : State) :
    (State.enterError r s).mem = s.mem := rfl
@[simp] theorem State.enterError_txbuf (r : Raise) (s : State) :
    (State.enterError r s).txbuf = s.txbuf := rfl
@[simp] theorem State.enterError_hdr (r : Raise) (s : State) :
    (State.enterError r s).hdr = s.hdr := rfl
@[simp] theorem State.enterError_rst (r : Raise) (s : State) :
    (State.enterError r s).rst = s.rst := rfl
@[simp] theorem State.enterError_txStream (r : Raise) (s : State) :
    (State.enterError r s).txStream = s.txStream := rfl
@[simp] theorem State.enterError_rxStream (r : Raise) (s : State) :
    (State.enterError r s).rxStream = s.rxStream := rfl
@[simp] theorem State.enterError_answer (r : Raise) (s : State) :
    (State.enterError r s).answer = s.answer := rfl
@[simp] theorem State.enterError_inputs (r : Raise) (s : State) :
    (State.enterError r s).inputs = s.inputs := rfl
@[simp] theorem State.enterError_rdata (r : Raise) (s : State) :
    (State.enterError r s).rdata = s.rdata := rfl
@[simp] theorem State.enterError_resets (r : Raise) (s : State) :
    (State.enterError r s).resets = s.resets := rfl
@[simp] theorem State.enterError_freeReads (r : Raise) (s : State) :
    (State.enterError r s).freeReads = s.freeReads := rfl

/-! ### `State.completeOk` -/

@[simp] theorem State.completeOk_cmd (s : State) :
    (State.completeOk s).cmd = s.cmd := rfl
@[simp] theorem State.completeOk_status (s : State) :
    (State.completeOk s).status = 0x00 := rfl
@[simp] theorem State.completeOk_info (s : State) :
    (State.completeOk s).info = s.info := rfl
@[simp] theorem State.completeOk_result (s : State) :
    (State.completeOk s).result = s.result := rfl
@[simp] theorem State.completeOk_rlen (s : State) :
    (State.completeOk s).rlen = s.rlen := rfl
@[simp] theorem State.completeOk_done (s : State) :
    (State.completeOk s).done = true := rfl
@[simp] theorem State.completeOk_cmdOvr (s : State) :
    (State.completeOk s).cmdOvr = s.cmdOvr := rfl
@[simp] theorem State.completeOk_phase (s : State) :
    (State.completeOk s).phase = .idle := rfl
@[simp] theorem State.completeOk_opl (s : State) :
    (State.completeOk s).opl = s.opl := rfl
@[simp] theorem State.completeOk_txlen (s : State) :
    (State.completeOk s).txlen = s.txlen := rfl
@[simp] theorem State.completeOk_mem (s : State) :
    (State.completeOk s).mem = s.mem := rfl
@[simp] theorem State.completeOk_txbuf (s : State) :
    (State.completeOk s).txbuf = s.txbuf := rfl
@[simp] theorem State.completeOk_hdr (s : State) :
    (State.completeOk s).hdr = s.hdr := rfl
@[simp] theorem State.completeOk_rst (s : State) :
    (State.completeOk s).rst = s.rst := rfl
@[simp] theorem State.completeOk_txStream (s : State) :
    (State.completeOk s).txStream = s.txStream := rfl
@[simp] theorem State.completeOk_rxStream (s : State) :
    (State.completeOk s).rxStream = s.rxStream := rfl
@[simp] theorem State.completeOk_answer (s : State) :
    (State.completeOk s).answer = s.answer := rfl
@[simp] theorem State.completeOk_inputs (s : State) :
    (State.completeOk s).inputs = s.inputs := rfl
@[simp] theorem State.completeOk_rdata (s : State) :
    (State.completeOk s).rdata = s.rdata := rfl
@[simp] theorem State.completeOk_resets (s : State) :
    (State.completeOk s).resets = s.resets := rfl
@[simp] theorem State.completeOk_freeReads (s : State) :
    (State.completeOk s).freeReads = s.freeReads := rfl

/-! ### `State.beginOp` -/

@[simp] theorem State.beginOp_cmd (d : Descriptor) (s : State) :
    (State.beginOp d s).cmd = d := rfl
@[simp] theorem State.beginOp_status (d : Descriptor) (s : State) :
    (State.beginOp d s).status = 0x00 := rfl
@[simp] theorem State.beginOp_info (d : Descriptor) (s : State) :
    (State.beginOp d s).info = 0x00 := rfl
@[simp] theorem State.beginOp_result (d : Descriptor) (s : State) :
    (State.beginOp d s).result = 0x00 := rfl
@[simp] theorem State.beginOp_rlen (d : Descriptor) (s : State) :
    (State.beginOp d s).rlen = 0x00 := rfl
@[simp] theorem State.beginOp_done (d : Descriptor) (s : State) :
    (State.beginOp d s).done = false := rfl
@[simp] theorem State.beginOp_cmdOvr (d : Descriptor) (s : State) :
    (State.beginOp d s).cmdOvr = s.cmdOvr := rfl
@[simp] theorem State.beginOp_phase (d : Descriptor) (s : State) :
    (State.beginOp d s).phase = s.phase := rfl
@[simp] theorem State.beginOp_opl (d : Descriptor) (s : State) :
    (State.beginOp d s).opl = s.opl := rfl
@[simp] theorem State.beginOp_txlen (d : Descriptor) (s : State) :
    (State.beginOp d s).txlen = s.txlen := rfl
@[simp] theorem State.beginOp_mem (d : Descriptor) (s : State) :
    (State.beginOp d s).mem = s.mem := rfl
@[simp] theorem State.beginOp_txbuf (d : Descriptor) (s : State) :
    (State.beginOp d s).txbuf = s.txbuf := rfl
@[simp] theorem State.beginOp_hdr (d : Descriptor) (s : State) :
    (State.beginOp d s).hdr = s.hdr := rfl
@[simp] theorem State.beginOp_rst (d : Descriptor) (s : State) :
    (State.beginOp d s).rst = s.rst := rfl
@[simp] theorem State.beginOp_txStream (d : Descriptor) (s : State) :
    (State.beginOp d s).txStream = s.txStream := rfl
@[simp] theorem State.beginOp_rxStream (d : Descriptor) (s : State) :
    (State.beginOp d s).rxStream = s.rxStream := rfl
@[simp] theorem State.beginOp_answer (d : Descriptor) (s : State) :
    (State.beginOp d s).answer = s.answer := rfl
@[simp] theorem State.beginOp_inputs (d : Descriptor) (s : State) :
    (State.beginOp d s).inputs = s.inputs := rfl
@[simp] theorem State.beginOp_rdata (d : Descriptor) (s : State) :
    (State.beginOp d s).rdata = s.rdata := rfl
@[simp] theorem State.beginOp_resets (d : Descriptor) (s : State) :
    (State.beginOp d s).resets = s.resets := rfl
@[simp] theorem State.beginOp_freeReads (d : Descriptor) (s : State) :
    (State.beginOp d s).freeReads = s.freeReads := rfl

/-! ### `State.launch` -/

@[simp] theorem State.launch_cmd (op : BitVec 4) (f : List Byte) (s : State) :
    (State.launch op f s).cmd = s.cmd := rfl
@[simp] theorem State.launch_status (op : BitVec 4) (f : List Byte) (s : State) :
    (State.launch op f s).status = s.status := rfl
@[simp] theorem State.launch_info (op : BitVec 4) (f : List Byte) (s : State) :
    (State.launch op f s).info = s.info := rfl
@[simp] theorem State.launch_result (op : BitVec 4) (f : List Byte) (s : State) :
    (State.launch op f s).result = s.result := rfl
@[simp] theorem State.launch_rlen (op : BitVec 4) (f : List Byte) (s : State) :
    (State.launch op f s).rlen = s.rlen := rfl
@[simp] theorem State.launch_done (op : BitVec 4) (f : List Byte) (s : State) :
    (State.launch op f s).done = s.done := rfl
@[simp] theorem State.launch_cmdOvr (op : BitVec 4) (f : List Byte) (s : State) :
    (State.launch op f s).cmdOvr = s.cmdOvr := rfl
@[simp] theorem State.launch_phase (op : BitVec 4) (f : List Byte) (s : State) :
    (State.launch op f s).phase = .tx := rfl
@[simp] theorem State.launch_opl (op : BitVec 4) (f : List Byte) (s : State) :
    (State.launch op f s).opl = op := rfl
@[simp] theorem State.launch_txlen (op : BitVec 4) (f : List Byte) (s : State) :
    (State.launch op f s).txlen = BitVec.ofNat 9 f.length := rfl
@[simp] theorem State.launch_mem (op : BitVec 4) (f : List Byte) (s : State) :
    (State.launch op f s).mem = s.mem := rfl
@[simp] theorem State.launch_txbuf (op : BitVec 4) (f : List Byte) (s : State) :
    (State.launch op f s).txbuf = Memory.writeBytes s.txbuf 0 f := rfl
@[simp] theorem State.launch_hdr (op : BitVec 4) (f : List Byte) (s : State) :
    (State.launch op f s).hdr = s.hdr := rfl
@[simp] theorem State.launch_rst (op : BitVec 4) (f : List Byte) (s : State) :
    (State.launch op f s).rst = s.rst := rfl
@[simp] theorem State.launch_txStream (op : BitVec 4) (f : List Byte) (s : State) :
    (State.launch op f s).txStream = s.txStream := rfl
@[simp] theorem State.launch_rxStream (op : BitVec 4) (f : List Byte) (s : State) :
    (State.launch op f s).rxStream = s.rxStream := rfl
@[simp] theorem State.launch_answer (op : BitVec 4) (f : List Byte) (s : State) :
    (State.launch op f s).answer = s.answer := rfl
@[simp] theorem State.launch_inputs (op : BitVec 4) (f : List Byte) (s : State) :
    (State.launch op f s).inputs = s.inputs := rfl
@[simp] theorem State.launch_rdata (op : BitVec 4) (f : List Byte) (s : State) :
    (State.launch op f s).rdata = s.rdata := rfl
@[simp] theorem State.launch_resets (op : BitVec 4) (f : List Byte) (s : State) :
    (State.launch op f s).resets = s.resets := rfl
@[simp] theorem State.launch_freeReads (op : BitVec 4) (f : List Byte) (s : State) :
    (State.launch op f s).freeReads = s.freeReads := rfl

/-! ### `State.storePayload` -/

@[simp] theorem State.storePayload_cmd (p : List Byte) (s : State) :
    (State.storePayload p s).cmd = s.cmd := rfl
@[simp] theorem State.storePayload_status (p : List Byte) (s : State) :
    (State.storePayload p s).status = s.status := rfl
@[simp] theorem State.storePayload_info (p : List Byte) (s : State) :
    (State.storePayload p s).info = s.info := rfl
@[simp] theorem State.storePayload_result (p : List Byte) (s : State) :
    (State.storePayload p s).result = s.result := rfl
@[simp] theorem State.storePayload_rlen (p : List Byte) (s : State) :
    (State.storePayload p s).rlen = BitVec.ofNat 8 p.length := rfl
@[simp] theorem State.storePayload_done (p : List Byte) (s : State) :
    (State.storePayload p s).done = s.done := rfl
@[simp] theorem State.storePayload_cmdOvr (p : List Byte) (s : State) :
    (State.storePayload p s).cmdOvr = s.cmdOvr := rfl
@[simp] theorem State.storePayload_phase (p : List Byte) (s : State) :
    (State.storePayload p s).phase = s.phase := rfl
@[simp] theorem State.storePayload_opl (p : List Byte) (s : State) :
    (State.storePayload p s).opl = s.opl := rfl
@[simp] theorem State.storePayload_txlen (p : List Byte) (s : State) :
    (State.storePayload p s).txlen = s.txlen := rfl
@[simp] theorem State.storePayload_mem (p : List Byte) (s : State) :
    (State.storePayload p s).mem = Memory.writeBytes s.mem 0x100 p := rfl
@[simp] theorem State.storePayload_txbuf (p : List Byte) (s : State) :
    (State.storePayload p s).txbuf = s.txbuf := rfl
@[simp] theorem State.storePayload_hdr (p : List Byte) (s : State) :
    (State.storePayload p s).hdr = s.hdr := rfl
@[simp] theorem State.storePayload_rst (p : List Byte) (s : State) :
    (State.storePayload p s).rst = s.rst := rfl
@[simp] theorem State.storePayload_txStream (p : List Byte) (s : State) :
    (State.storePayload p s).txStream = s.txStream := rfl
@[simp] theorem State.storePayload_rxStream (p : List Byte) (s : State) :
    (State.storePayload p s).rxStream = s.rxStream := rfl
@[simp] theorem State.storePayload_answer (p : List Byte) (s : State) :
    (State.storePayload p s).answer = s.answer := rfl
@[simp] theorem State.storePayload_inputs (p : List Byte) (s : State) :
    (State.storePayload p s).inputs = s.inputs := rfl
@[simp] theorem State.storePayload_rdata (p : List Byte) (s : State) :
    (State.storePayload p s).rdata = s.rdata := rfl
@[simp] theorem State.storePayload_resets (p : List Byte) (s : State) :
    (State.storePayload p s).resets = s.resets := rfl
@[simp] theorem State.storePayload_freeReads (p : List Byte) (s : State) :
    (State.storePayload p s).freeReads = s.freeReads := rfl

/-! ### `State.latchHeader` -/

@[simp] theorem State.latchHeader_cmd (r : List Byte) (s : State) :
    (State.latchHeader r s).cmd = s.cmd := rfl
@[simp] theorem State.latchHeader_status (r : List Byte) (s : State) :
    (State.latchHeader r s).status = s.status := rfl
@[simp] theorem State.latchHeader_info (r : List Byte) (s : State) :
    (State.latchHeader r s).info = s.info := rfl
@[simp] theorem State.latchHeader_result (r : List Byte) (s : State) :
    (State.latchHeader r s).result = s.result := rfl
@[simp] theorem State.latchHeader_rlen (r : List Byte) (s : State) :
    (State.latchHeader r s).rlen = s.rlen := rfl
@[simp] theorem State.latchHeader_done (r : List Byte) (s : State) :
    (State.latchHeader r s).done = s.done := rfl
@[simp] theorem State.latchHeader_cmdOvr (r : List Byte) (s : State) :
    (State.latchHeader r s).cmdOvr = s.cmdOvr := rfl
@[simp] theorem State.latchHeader_phase (r : List Byte) (s : State) :
    (State.latchHeader r s).phase = .rxbody := rfl
@[simp] theorem State.latchHeader_opl (r : List Byte) (s : State) :
    (State.latchHeader r s).opl = s.opl := rfl
@[simp] theorem State.latchHeader_txlen (r : List Byte) (s : State) :
    (State.latchHeader r s).txlen = s.txlen := rfl
@[simp] theorem State.latchHeader_mem (r : List Byte) (s : State) :
    (State.latchHeader r s).mem = s.mem := rfl
@[simp] theorem State.latchHeader_txbuf (r : List Byte) (s : State) :
    (State.latchHeader r s).txbuf = s.txbuf := rfl
@[simp] theorem State.latchHeader_hdr (r : List Byte) (s : State) :
    (State.latchHeader r s).hdr = Memory.writeBytes s.hdr 0 r := rfl
@[simp] theorem State.latchHeader_rst (r : List Byte) (s : State) :
    (State.latchHeader r s).rst = s.rst := rfl
@[simp] theorem State.latchHeader_txStream (r : List Byte) (s : State) :
    (State.latchHeader r s).txStream = s.txStream := rfl
@[simp] theorem State.latchHeader_rxStream (r : List Byte) (s : State) :
    (State.latchHeader r s).rxStream = s.rxStream := rfl
@[simp] theorem State.latchHeader_answer (r : List Byte) (s : State) :
    (State.latchHeader r s).answer = s.answer := rfl
@[simp] theorem State.latchHeader_inputs (r : List Byte) (s : State) :
    (State.latchHeader r s).inputs = s.inputs := rfl
@[simp] theorem State.latchHeader_rdata (r : List Byte) (s : State) :
    (State.latchHeader r s).rdata = s.rdata := rfl
@[simp] theorem State.latchHeader_resets (r : List Byte) (s : State) :
    (State.latchHeader r s).resets = s.resets := rfl
@[simp] theorem State.latchHeader_freeReads (r : List Byte) (s : State) :
    (State.latchHeader r s).freeReads = s.freeReads := rfl

/-! ### `State.resetBlock` -/

@[simp] theorem State.resetBlock_cmd (s : State) :
    (State.resetBlock s).cmd = 0 := rfl
@[simp] theorem State.resetBlock_status (s : State) :
    (State.resetBlock s).status = 0 := rfl
@[simp] theorem State.resetBlock_info (s : State) :
    (State.resetBlock s).info = 0 := rfl
@[simp] theorem State.resetBlock_result (s : State) :
    (State.resetBlock s).result = 0 := rfl
@[simp] theorem State.resetBlock_rlen (s : State) :
    (State.resetBlock s).rlen = 0 := rfl
@[simp] theorem State.resetBlock_done (s : State) :
    (State.resetBlock s).done = false := rfl
@[simp] theorem State.resetBlock_cmdOvr (s : State) :
    (State.resetBlock s).cmdOvr = false := rfl
@[simp] theorem State.resetBlock_phase (s : State) :
    (State.resetBlock s).phase = .idle := rfl
@[simp] theorem State.resetBlock_opl (s : State) :
    (State.resetBlock s).opl = 0 := rfl
@[simp] theorem State.resetBlock_txlen (s : State) :
    (State.resetBlock s).txlen = 0 := rfl
@[simp] theorem State.resetBlock_mem (s : State) :
    (State.resetBlock s).mem = [] := rfl
@[simp] theorem State.resetBlock_txbuf (s : State) :
    (State.resetBlock s).txbuf = [] := rfl
@[simp] theorem State.resetBlock_hdr (s : State) :
    (State.resetBlock s).hdr = [] := rfl
@[simp] theorem State.resetBlock_rst (s : State) :
    (State.resetBlock s).rst = s.rst := rfl
@[simp] theorem State.resetBlock_txStream (s : State) :
    (State.resetBlock s).txStream = s.txStream := rfl
@[simp] theorem State.resetBlock_rxStream (s : State) :
    (State.resetBlock s).rxStream = s.rxStream := rfl
@[simp] theorem State.resetBlock_answer (s : State) :
    (State.resetBlock s).answer = none := rfl
@[simp] theorem State.resetBlock_inputs (s : State) :
    (State.resetBlock s).inputs = s.inputs := rfl
@[simp] theorem State.resetBlock_rdata (s : State) :
    (State.resetBlock s).rdata = s.rdata := rfl
@[simp] theorem State.resetBlock_resets (s : State) :
    (State.resetBlock s).resets = s.resets + 1 := rfl
@[simp] theorem State.resetBlock_freeReads (s : State) :
    (State.resetBlock s).freeReads = s.freeReads := rfl

/-! ### `State.assertReset` -/

@[simp] theorem State.assertReset_cmd (n : Nat) (s : State) :
    (State.assertReset n s).cmd = 0 := rfl
@[simp] theorem State.assertReset_status (n : Nat) (s : State) :
    (State.assertReset n s).status = 0 := rfl
@[simp] theorem State.assertReset_info (n : Nat) (s : State) :
    (State.assertReset n s).info = 0 := rfl
@[simp] theorem State.assertReset_result (n : Nat) (s : State) :
    (State.assertReset n s).result = 0 := rfl
@[simp] theorem State.assertReset_rlen (n : Nat) (s : State) :
    (State.assertReset n s).rlen = 0 := rfl
@[simp] theorem State.assertReset_done (n : Nat) (s : State) :
    (State.assertReset n s).done = false := rfl
@[simp] theorem State.assertReset_cmdOvr (n : Nat) (s : State) :
    (State.assertReset n s).cmdOvr = false := rfl
@[simp] theorem State.assertReset_phase (n : Nat) (s : State) :
    (State.assertReset n s).phase = .idle := rfl
@[simp] theorem State.assertReset_opl (n : Nat) (s : State) :
    (State.assertReset n s).opl = 0 := rfl
@[simp] theorem State.assertReset_txlen (n : Nat) (s : State) :
    (State.assertReset n s).txlen = 0 := rfl
@[simp] theorem State.assertReset_mem (n : Nat) (s : State) :
    (State.assertReset n s).mem = [] := rfl
@[simp] theorem State.assertReset_txbuf (n : Nat) (s : State) :
    (State.assertReset n s).txbuf = [] := rfl
@[simp] theorem State.assertReset_hdr (n : Nat) (s : State) :
    (State.assertReset n s).hdr = [] := rfl
@[simp] theorem State.assertReset_rst (n : Nat) (s : State) :
    (State.assertReset n s).rst = true := rfl
@[simp] theorem State.assertReset_txStream (n : Nat) (s : State) :
    (State.assertReset n s).txStream = if s.phase = .tx then s.txStream ++ s.txFrame.take n else s.txStream := rfl
@[simp] theorem State.assertReset_rxStream (n : Nat) (s : State) :
    (State.assertReset n s).rxStream = s.rxStream := rfl
@[simp] theorem State.assertReset_answer (n : Nat) (s : State) :
    (State.assertReset n s).answer = none := rfl
@[simp] theorem State.assertReset_inputs (n : Nat) (s : State) :
    (State.assertReset n s).inputs = s.inputs := rfl
@[simp] theorem State.assertReset_rdata (n : Nat) (s : State) :
    (State.assertReset n s).rdata = s.rdata := rfl
@[simp] theorem State.assertReset_resets (n : Nat) (s : State) :
    (State.assertReset n s).resets = s.resets + 1 := rfl
@[simp] theorem State.assertReset_freeReads (n : Nat) (s : State) :
    (State.assertReset n s).freeReads = s.freeReads := rfl

/-! ### `State.releaseReset` -/

@[simp] theorem State.releaseReset_cmd (s : State) :
    (State.releaseReset s).cmd = s.cmd := rfl
@[simp] theorem State.releaseReset_status (s : State) :
    (State.releaseReset s).status = s.status := rfl
@[simp] theorem State.releaseReset_info (s : State) :
    (State.releaseReset s).info = s.info := rfl
@[simp] theorem State.releaseReset_result (s : State) :
    (State.releaseReset s).result = s.result := rfl
@[simp] theorem State.releaseReset_rlen (s : State) :
    (State.releaseReset s).rlen = s.rlen := rfl
@[simp] theorem State.releaseReset_done (s : State) :
    (State.releaseReset s).done = s.done := rfl
@[simp] theorem State.releaseReset_cmdOvr (s : State) :
    (State.releaseReset s).cmdOvr = s.cmdOvr := rfl
@[simp] theorem State.releaseReset_phase (s : State) :
    (State.releaseReset s).phase = s.phase := rfl
@[simp] theorem State.releaseReset_opl (s : State) :
    (State.releaseReset s).opl = s.opl := rfl
@[simp] theorem State.releaseReset_txlen (s : State) :
    (State.releaseReset s).txlen = s.txlen := rfl
@[simp] theorem State.releaseReset_mem (s : State) :
    (State.releaseReset s).mem = s.mem := rfl
@[simp] theorem State.releaseReset_txbuf (s : State) :
    (State.releaseReset s).txbuf = s.txbuf := rfl
@[simp] theorem State.releaseReset_hdr (s : State) :
    (State.releaseReset s).hdr = s.hdr := rfl
@[simp] theorem State.releaseReset_rst (s : State) :
    (State.releaseReset s).rst = false := rfl
@[simp] theorem State.releaseReset_txStream (s : State) :
    (State.releaseReset s).txStream = s.txStream := rfl
@[simp] theorem State.releaseReset_rxStream (s : State) :
    (State.releaseReset s).rxStream = s.rxStream := rfl
@[simp] theorem State.releaseReset_answer (s : State) :
    (State.releaseReset s).answer = s.answer := rfl
@[simp] theorem State.releaseReset_inputs (s : State) :
    (State.releaseReset s).inputs = s.inputs := rfl
@[simp] theorem State.releaseReset_rdata (s : State) :
    (State.releaseReset s).rdata = s.rdata := rfl
@[simp] theorem State.releaseReset_resets (s : State) :
    (State.releaseReset s).resets = s.resets := rfl
@[simp] theorem State.releaseReset_freeReads (s : State) :
    (State.releaseReset s).freeReads = s.freeReads := rfl

/-! ### `State.sendBytes` -/

@[simp] theorem State.sendBytes_cmd (bs : List Byte) (s : State) :
    (State.sendBytes bs s).cmd = s.cmd := rfl
@[simp] theorem State.sendBytes_status (bs : List Byte) (s : State) :
    (State.sendBytes bs s).status = s.status := rfl
@[simp] theorem State.sendBytes_info (bs : List Byte) (s : State) :
    (State.sendBytes bs s).info = s.info := rfl
@[simp] theorem State.sendBytes_result (bs : List Byte) (s : State) :
    (State.sendBytes bs s).result = s.result := rfl
@[simp] theorem State.sendBytes_rlen (bs : List Byte) (s : State) :
    (State.sendBytes bs s).rlen = s.rlen := rfl
@[simp] theorem State.sendBytes_done (bs : List Byte) (s : State) :
    (State.sendBytes bs s).done = s.done := rfl
@[simp] theorem State.sendBytes_cmdOvr (bs : List Byte) (s : State) :
    (State.sendBytes bs s).cmdOvr = s.cmdOvr := rfl
@[simp] theorem State.sendBytes_phase (bs : List Byte) (s : State) :
    (State.sendBytes bs s).phase = s.phase := rfl
@[simp] theorem State.sendBytes_opl (bs : List Byte) (s : State) :
    (State.sendBytes bs s).opl = s.opl := rfl
@[simp] theorem State.sendBytes_txlen (bs : List Byte) (s : State) :
    (State.sendBytes bs s).txlen = s.txlen := rfl
@[simp] theorem State.sendBytes_mem (bs : List Byte) (s : State) :
    (State.sendBytes bs s).mem = s.mem := rfl
@[simp] theorem State.sendBytes_txbuf (bs : List Byte) (s : State) :
    (State.sendBytes bs s).txbuf = s.txbuf := rfl
@[simp] theorem State.sendBytes_hdr (bs : List Byte) (s : State) :
    (State.sendBytes bs s).hdr = s.hdr := rfl
@[simp] theorem State.sendBytes_rst (bs : List Byte) (s : State) :
    (State.sendBytes bs s).rst = s.rst := rfl
@[simp] theorem State.sendBytes_txStream (bs : List Byte) (s : State) :
    (State.sendBytes bs s).txStream = s.txStream ++ bs := rfl
@[simp] theorem State.sendBytes_rxStream (bs : List Byte) (s : State) :
    (State.sendBytes bs s).rxStream = s.rxStream := rfl
@[simp] theorem State.sendBytes_answer (bs : List Byte) (s : State) :
    (State.sendBytes bs s).answer = none := rfl
@[simp] theorem State.sendBytes_inputs (bs : List Byte) (s : State) :
    (State.sendBytes bs s).inputs = s.inputs := rfl
@[simp] theorem State.sendBytes_rdata (bs : List Byte) (s : State) :
    (State.sendBytes bs s).rdata = s.rdata := rfl
@[simp] theorem State.sendBytes_resets (bs : List Byte) (s : State) :
    (State.sendBytes bs s).resets = s.resets := rfl
@[simp] theorem State.sendBytes_freeReads (bs : List Byte) (s : State) :
    (State.sendBytes bs s).freeReads = s.freeReads := rfl

/-! ### `State.consume` -/

@[simp] theorem State.consume_cmd (n : Nat) (s : State) :
    (State.consume n s).cmd = s.cmd := rfl
@[simp] theorem State.consume_status (n : Nat) (s : State) :
    (State.consume n s).status = s.status := rfl
@[simp] theorem State.consume_info (n : Nat) (s : State) :
    (State.consume n s).info = s.info := rfl
@[simp] theorem State.consume_result (n : Nat) (s : State) :
    (State.consume n s).result = s.result := rfl
@[simp] theorem State.consume_rlen (n : Nat) (s : State) :
    (State.consume n s).rlen = s.rlen := rfl
@[simp] theorem State.consume_done (n : Nat) (s : State) :
    (State.consume n s).done = s.done := rfl
@[simp] theorem State.consume_cmdOvr (n : Nat) (s : State) :
    (State.consume n s).cmdOvr = s.cmdOvr := rfl
@[simp] theorem State.consume_phase (n : Nat) (s : State) :
    (State.consume n s).phase = s.phase := rfl
@[simp] theorem State.consume_opl (n : Nat) (s : State) :
    (State.consume n s).opl = s.opl := rfl
@[simp] theorem State.consume_txlen (n : Nat) (s : State) :
    (State.consume n s).txlen = s.txlen := rfl
@[simp] theorem State.consume_mem (n : Nat) (s : State) :
    (State.consume n s).mem = s.mem := rfl
@[simp] theorem State.consume_txbuf (n : Nat) (s : State) :
    (State.consume n s).txbuf = s.txbuf := rfl
@[simp] theorem State.consume_hdr (n : Nat) (s : State) :
    (State.consume n s).hdr = s.hdr := rfl
@[simp] theorem State.consume_rst (n : Nat) (s : State) :
    (State.consume n s).rst = s.rst := rfl
@[simp] theorem State.consume_txStream (n : Nat) (s : State) :
    (State.consume n s).txStream = s.txStream := rfl
@[simp] theorem State.consume_rxStream (n : Nat) (s : State) :
    (State.consume n s).rxStream = s.rxStream.drop n := rfl
@[simp] theorem State.consume_answer (n : Nat) (s : State) :
    (State.consume n s).answer = none := rfl
@[simp] theorem State.consume_inputs (n : Nat) (s : State) :
    (State.consume n s).inputs = s.inputs := rfl
@[simp] theorem State.consume_rdata (n : Nat) (s : State) :
    (State.consume n s).rdata = s.rdata := rfl
@[simp] theorem State.consume_resets (n : Nat) (s : State) :
    (State.consume n s).resets = s.resets := rfl
@[simp] theorem State.consume_freeReads (n : Nat) (s : State) :
    (State.consume n s).freeReads = s.freeReads := rfl

/-! ### `State.offer` -/

@[simp] theorem State.offer_cmd (x : Option Answer) (s : State) :
    (State.offer x s).cmd = s.cmd := rfl
@[simp] theorem State.offer_status (x : Option Answer) (s : State) :
    (State.offer x s).status = s.status := rfl
@[simp] theorem State.offer_info (x : Option Answer) (s : State) :
    (State.offer x s).info = s.info := rfl
@[simp] theorem State.offer_result (x : Option Answer) (s : State) :
    (State.offer x s).result = s.result := rfl
@[simp] theorem State.offer_rlen (x : Option Answer) (s : State) :
    (State.offer x s).rlen = s.rlen := rfl
@[simp] theorem State.offer_done (x : Option Answer) (s : State) :
    (State.offer x s).done = s.done := rfl
@[simp] theorem State.offer_cmdOvr (x : Option Answer) (s : State) :
    (State.offer x s).cmdOvr = s.cmdOvr := rfl
@[simp] theorem State.offer_phase (x : Option Answer) (s : State) :
    (State.offer x s).phase = s.phase := rfl
@[simp] theorem State.offer_opl (x : Option Answer) (s : State) :
    (State.offer x s).opl = s.opl := rfl
@[simp] theorem State.offer_txlen (x : Option Answer) (s : State) :
    (State.offer x s).txlen = s.txlen := rfl
@[simp] theorem State.offer_mem (x : Option Answer) (s : State) :
    (State.offer x s).mem = s.mem := rfl
@[simp] theorem State.offer_txbuf (x : Option Answer) (s : State) :
    (State.offer x s).txbuf = s.txbuf := rfl
@[simp] theorem State.offer_hdr (x : Option Answer) (s : State) :
    (State.offer x s).hdr = s.hdr := rfl
@[simp] theorem State.offer_rst (x : Option Answer) (s : State) :
    (State.offer x s).rst = s.rst := rfl
@[simp] theorem State.offer_txStream (x : Option Answer) (s : State) :
    (State.offer x s).txStream = s.txStream := rfl
@[simp] theorem State.offer_rxStream (x : Option Answer) (s : State) :
    (State.offer x s).rxStream = s.rxStream := rfl
@[simp] theorem State.offer_answer (x : Option Answer) (s : State) :
    (State.offer x s).answer = x := rfl
@[simp] theorem State.offer_inputs (x : Option Answer) (s : State) :
    (State.offer x s).inputs = s.inputs := rfl
@[simp] theorem State.offer_rdata (x : Option Answer) (s : State) :
    (State.offer x s).rdata = s.rdata := rfl
@[simp] theorem State.offer_resets (x : Option Answer) (s : State) :
    (State.offer x s).resets = s.resets := rfl
@[simp] theorem State.offer_freeReads (x : Option Answer) (s : State) :
    (State.offer x s).freeReads = s.freeReads := rfl

/-! ### `State.awaitHeader` -/

@[simp] theorem State.awaitHeader_cmd (s : State) :
    (State.awaitHeader s).cmd = s.cmd := rfl
@[simp] theorem State.awaitHeader_status (s : State) :
    (State.awaitHeader s).status = s.status := rfl
@[simp] theorem State.awaitHeader_info (s : State) :
    (State.awaitHeader s).info = s.info := rfl
@[simp] theorem State.awaitHeader_result (s : State) :
    (State.awaitHeader s).result = s.result := rfl
@[simp] theorem State.awaitHeader_rlen (s : State) :
    (State.awaitHeader s).rlen = s.rlen := rfl
@[simp] theorem State.awaitHeader_done (s : State) :
    (State.awaitHeader s).done = s.done := rfl
@[simp] theorem State.awaitHeader_cmdOvr (s : State) :
    (State.awaitHeader s).cmdOvr = s.cmdOvr := rfl
@[simp] theorem State.awaitHeader_phase (s : State) :
    (State.awaitHeader s).phase = .rxhdr := rfl
@[simp] theorem State.awaitHeader_opl (s : State) :
    (State.awaitHeader s).opl = s.opl := rfl
@[simp] theorem State.awaitHeader_txlen (s : State) :
    (State.awaitHeader s).txlen = s.txlen := rfl
@[simp] theorem State.awaitHeader_mem (s : State) :
    (State.awaitHeader s).mem = s.mem := rfl
@[simp] theorem State.awaitHeader_txbuf (s : State) :
    (State.awaitHeader s).txbuf = s.txbuf := rfl
@[simp] theorem State.awaitHeader_hdr (s : State) :
    (State.awaitHeader s).hdr = s.hdr := rfl
@[simp] theorem State.awaitHeader_rst (s : State) :
    (State.awaitHeader s).rst = s.rst := rfl
@[simp] theorem State.awaitHeader_txStream (s : State) :
    (State.awaitHeader s).txStream = s.txStream := rfl
@[simp] theorem State.awaitHeader_rxStream (s : State) :
    (State.awaitHeader s).rxStream = s.rxStream := rfl
@[simp] theorem State.awaitHeader_answer (s : State) :
    (State.awaitHeader s).answer = s.answer := rfl
@[simp] theorem State.awaitHeader_inputs (s : State) :
    (State.awaitHeader s).inputs = s.inputs := rfl
@[simp] theorem State.awaitHeader_rdata (s : State) :
    (State.awaitHeader s).rdata = s.rdata := rfl
@[simp] theorem State.awaitHeader_resets (s : State) :
    (State.awaitHeader s).resets = s.resets := rfl
@[simp] theorem State.awaitHeader_freeReads (s : State) :
    (State.awaitHeader s).freeReads = s.freeReads := rfl

/-! ### `State.setResult` -/

@[simp] theorem State.setResult_cmd (v : Byte) (s : State) :
    (State.setResult v s).cmd = s.cmd := rfl
@[simp] theorem State.setResult_status (v : Byte) (s : State) :
    (State.setResult v s).status = s.status := rfl
@[simp] theorem State.setResult_info (v : Byte) (s : State) :
    (State.setResult v s).info = s.info := rfl
@[simp] theorem State.setResult_result (v : Byte) (s : State) :
    (State.setResult v s).result = v := rfl
@[simp] theorem State.setResult_rlen (v : Byte) (s : State) :
    (State.setResult v s).rlen = s.rlen := rfl
@[simp] theorem State.setResult_done (v : Byte) (s : State) :
    (State.setResult v s).done = s.done := rfl
@[simp] theorem State.setResult_cmdOvr (v : Byte) (s : State) :
    (State.setResult v s).cmdOvr = s.cmdOvr := rfl
@[simp] theorem State.setResult_phase (v : Byte) (s : State) :
    (State.setResult v s).phase = s.phase := rfl
@[simp] theorem State.setResult_opl (v : Byte) (s : State) :
    (State.setResult v s).opl = s.opl := rfl
@[simp] theorem State.setResult_txlen (v : Byte) (s : State) :
    (State.setResult v s).txlen = s.txlen := rfl
@[simp] theorem State.setResult_mem (v : Byte) (s : State) :
    (State.setResult v s).mem = s.mem := rfl
@[simp] theorem State.setResult_txbuf (v : Byte) (s : State) :
    (State.setResult v s).txbuf = s.txbuf := rfl
@[simp] theorem State.setResult_hdr (v : Byte) (s : State) :
    (State.setResult v s).hdr = s.hdr := rfl
@[simp] theorem State.setResult_rst (v : Byte) (s : State) :
    (State.setResult v s).rst = s.rst := rfl
@[simp] theorem State.setResult_txStream (v : Byte) (s : State) :
    (State.setResult v s).txStream = s.txStream := rfl
@[simp] theorem State.setResult_rxStream (v : Byte) (s : State) :
    (State.setResult v s).rxStream = s.rxStream := rfl
@[simp] theorem State.setResult_answer (v : Byte) (s : State) :
    (State.setResult v s).answer = s.answer := rfl
@[simp] theorem State.setResult_inputs (v : Byte) (s : State) :
    (State.setResult v s).inputs = s.inputs := rfl
@[simp] theorem State.setResult_rdata (v : Byte) (s : State) :
    (State.setResult v s).rdata = s.rdata := rfl
@[simp] theorem State.setResult_resets (v : Byte) (s : State) :
    (State.setResult v s).resets = s.resets := rfl
@[simp] theorem State.setResult_freeReads (v : Byte) (s : State) :
    (State.setResult v s).freeReads = s.freeReads := rfl

/-! ### `State.setResultInfo` -/

@[simp] theorem State.setResultInfo_cmd (v w : Byte) (s : State) :
    (State.setResultInfo v w s).cmd = s.cmd := rfl
@[simp] theorem State.setResultInfo_status (v w : Byte) (s : State) :
    (State.setResultInfo v w s).status = s.status := rfl
@[simp] theorem State.setResultInfo_info (v w : Byte) (s : State) :
    (State.setResultInfo v w s).info = w := rfl
@[simp] theorem State.setResultInfo_result (v w : Byte) (s : State) :
    (State.setResultInfo v w s).result = v := rfl
@[simp] theorem State.setResultInfo_rlen (v w : Byte) (s : State) :
    (State.setResultInfo v w s).rlen = s.rlen := rfl
@[simp] theorem State.setResultInfo_done (v w : Byte) (s : State) :
    (State.setResultInfo v w s).done = s.done := rfl
@[simp] theorem State.setResultInfo_cmdOvr (v w : Byte) (s : State) :
    (State.setResultInfo v w s).cmdOvr = s.cmdOvr := rfl
@[simp] theorem State.setResultInfo_phase (v w : Byte) (s : State) :
    (State.setResultInfo v w s).phase = s.phase := rfl
@[simp] theorem State.setResultInfo_opl (v w : Byte) (s : State) :
    (State.setResultInfo v w s).opl = s.opl := rfl
@[simp] theorem State.setResultInfo_txlen (v w : Byte) (s : State) :
    (State.setResultInfo v w s).txlen = s.txlen := rfl
@[simp] theorem State.setResultInfo_mem (v w : Byte) (s : State) :
    (State.setResultInfo v w s).mem = s.mem := rfl
@[simp] theorem State.setResultInfo_txbuf (v w : Byte) (s : State) :
    (State.setResultInfo v w s).txbuf = s.txbuf := rfl
@[simp] theorem State.setResultInfo_hdr (v w : Byte) (s : State) :
    (State.setResultInfo v w s).hdr = s.hdr := rfl
@[simp] theorem State.setResultInfo_rst (v w : Byte) (s : State) :
    (State.setResultInfo v w s).rst = s.rst := rfl
@[simp] theorem State.setResultInfo_txStream (v w : Byte) (s : State) :
    (State.setResultInfo v w s).txStream = s.txStream := rfl
@[simp] theorem State.setResultInfo_rxStream (v w : Byte) (s : State) :
    (State.setResultInfo v w s).rxStream = s.rxStream := rfl
@[simp] theorem State.setResultInfo_answer (v w : Byte) (s : State) :
    (State.setResultInfo v w s).answer = s.answer := rfl
@[simp] theorem State.setResultInfo_inputs (v w : Byte) (s : State) :
    (State.setResultInfo v w s).inputs = s.inputs := rfl
@[simp] theorem State.setResultInfo_rdata (v w : Byte) (s : State) :
    (State.setResultInfo v w s).rdata = s.rdata := rfl
@[simp] theorem State.setResultInfo_resets (v w : Byte) (s : State) :
    (State.setResultInfo v w s).resets = s.resets := rfl
@[simp] theorem State.setResultInfo_freeReads (v w : Byte) (s : State) :
    (State.setResultInfo v w s).freeReads = s.freeReads := rfl

/-! ### `State.withReadData` -/

@[simp] theorem State.withReadData_cmd (bs : List Byte) (s : State) :
    (State.withReadData bs s).cmd = s.cmd := rfl
@[simp] theorem State.withReadData_status (bs : List Byte) (s : State) :
    (State.withReadData bs s).status = s.status := rfl
@[simp] theorem State.withReadData_info (bs : List Byte) (s : State) :
    (State.withReadData bs s).info = s.info := rfl
@[simp] theorem State.withReadData_result (bs : List Byte) (s : State) :
    (State.withReadData bs s).result = s.result := rfl
@[simp] theorem State.withReadData_rlen (bs : List Byte) (s : State) :
    (State.withReadData bs s).rlen = s.rlen := rfl
@[simp] theorem State.withReadData_done (bs : List Byte) (s : State) :
    (State.withReadData bs s).done = s.done := rfl
@[simp] theorem State.withReadData_cmdOvr (bs : List Byte) (s : State) :
    (State.withReadData bs s).cmdOvr = s.cmdOvr := rfl
@[simp] theorem State.withReadData_phase (bs : List Byte) (s : State) :
    (State.withReadData bs s).phase = s.phase := rfl
@[simp] theorem State.withReadData_opl (bs : List Byte) (s : State) :
    (State.withReadData bs s).opl = s.opl := rfl
@[simp] theorem State.withReadData_txlen (bs : List Byte) (s : State) :
    (State.withReadData bs s).txlen = s.txlen := rfl
@[simp] theorem State.withReadData_mem (bs : List Byte) (s : State) :
    (State.withReadData bs s).mem = s.mem := rfl
@[simp] theorem State.withReadData_txbuf (bs : List Byte) (s : State) :
    (State.withReadData bs s).txbuf = s.txbuf := rfl
@[simp] theorem State.withReadData_hdr (bs : List Byte) (s : State) :
    (State.withReadData bs s).hdr = s.hdr := rfl
@[simp] theorem State.withReadData_rst (bs : List Byte) (s : State) :
    (State.withReadData bs s).rst = s.rst := rfl
@[simp] theorem State.withReadData_txStream (bs : List Byte) (s : State) :
    (State.withReadData bs s).txStream = s.txStream := rfl
@[simp] theorem State.withReadData_rxStream (bs : List Byte) (s : State) :
    (State.withReadData bs s).rxStream = s.rxStream := rfl
@[simp] theorem State.withReadData_answer (bs : List Byte) (s : State) :
    (State.withReadData bs s).answer = s.answer := rfl
@[simp] theorem State.withReadData_inputs (bs : List Byte) (s : State) :
    (State.withReadData bs s).inputs = s.inputs := rfl
@[simp] theorem State.withReadData_rdata (bs : List Byte) (s : State) :
    (State.withReadData bs s).rdata = bs := rfl
@[simp] theorem State.withReadData_resets (bs : List Byte) (s : State) :
    (State.withReadData bs s).resets = s.resets := rfl
@[simp] theorem State.withReadData_freeReads (bs : List Byte) (s : State) :
    (State.withReadData bs s).freeReads = s.freeReads := rfl

/-! ### `State.arrive` -/

@[simp] theorem State.arrive_cmd (bs : List Byte) (s : State) :
    (State.arrive bs s).cmd = s.cmd := rfl
@[simp] theorem State.arrive_status (bs : List Byte) (s : State) :
    (State.arrive bs s).status = s.status := rfl
@[simp] theorem State.arrive_info (bs : List Byte) (s : State) :
    (State.arrive bs s).info = s.info := rfl
@[simp] theorem State.arrive_result (bs : List Byte) (s : State) :
    (State.arrive bs s).result = s.result := rfl
@[simp] theorem State.arrive_rlen (bs : List Byte) (s : State) :
    (State.arrive bs s).rlen = s.rlen := rfl
@[simp] theorem State.arrive_done (bs : List Byte) (s : State) :
    (State.arrive bs s).done = s.done := rfl
@[simp] theorem State.arrive_cmdOvr (bs : List Byte) (s : State) :
    (State.arrive bs s).cmdOvr = s.cmdOvr := rfl
@[simp] theorem State.arrive_phase (bs : List Byte) (s : State) :
    (State.arrive bs s).phase = s.phase := rfl
@[simp] theorem State.arrive_opl (bs : List Byte) (s : State) :
    (State.arrive bs s).opl = s.opl := rfl
@[simp] theorem State.arrive_txlen (bs : List Byte) (s : State) :
    (State.arrive bs s).txlen = s.txlen := rfl
@[simp] theorem State.arrive_mem (bs : List Byte) (s : State) :
    (State.arrive bs s).mem = s.mem := rfl
@[simp] theorem State.arrive_txbuf (bs : List Byte) (s : State) :
    (State.arrive bs s).txbuf = s.txbuf := rfl
@[simp] theorem State.arrive_hdr (bs : List Byte) (s : State) :
    (State.arrive bs s).hdr = s.hdr := rfl
@[simp] theorem State.arrive_rst (bs : List Byte) (s : State) :
    (State.arrive bs s).rst = s.rst := rfl
@[simp] theorem State.arrive_txStream (bs : List Byte) (s : State) :
    (State.arrive bs s).txStream = s.txStream := rfl
@[simp] theorem State.arrive_rxStream (bs : List Byte) (s : State) :
    (State.arrive bs s).rxStream = s.rxStream ++ bs := rfl
@[simp] theorem State.arrive_answer (bs : List Byte) (s : State) :
    (State.arrive bs s).answer = s.answer := rfl
@[simp] theorem State.arrive_inputs (bs : List Byte) (s : State) :
    (State.arrive bs s).inputs = s.inputs := rfl
@[simp] theorem State.arrive_rdata (bs : List Byte) (s : State) :
    (State.arrive bs s).rdata = s.rdata := rfl
@[simp] theorem State.arrive_resets (bs : List Byte) (s : State) :
    (State.arrive bs s).resets = s.resets := rfl
@[simp] theorem State.arrive_freeReads (bs : List Byte) (s : State) :
    (State.arrive bs s).freeReads = s.freeReads := rfl

/-! ### `State.drainRx` -/

@[simp] theorem State.drainRx_cmd (n : Nat) (s : State) :
    (State.drainRx n s).cmd = s.cmd := rfl
@[simp] theorem State.drainRx_status (n : Nat) (s : State) :
    (State.drainRx n s).status = s.status := rfl
@[simp] theorem State.drainRx_info (n : Nat) (s : State) :
    (State.drainRx n s).info = s.info := rfl
@[simp] theorem State.drainRx_result (n : Nat) (s : State) :
    (State.drainRx n s).result = s.result := rfl
@[simp] theorem State.drainRx_rlen (n : Nat) (s : State) :
    (State.drainRx n s).rlen = s.rlen := rfl
@[simp] theorem State.drainRx_done (n : Nat) (s : State) :
    (State.drainRx n s).done = s.done := rfl
@[simp] theorem State.drainRx_cmdOvr (n : Nat) (s : State) :
    (State.drainRx n s).cmdOvr = s.cmdOvr := rfl
@[simp] theorem State.drainRx_phase (n : Nat) (s : State) :
    (State.drainRx n s).phase = s.phase := rfl
@[simp] theorem State.drainRx_opl (n : Nat) (s : State) :
    (State.drainRx n s).opl = s.opl := rfl
@[simp] theorem State.drainRx_txlen (n : Nat) (s : State) :
    (State.drainRx n s).txlen = s.txlen := rfl
@[simp] theorem State.drainRx_mem (n : Nat) (s : State) :
    (State.drainRx n s).mem = s.mem := rfl
@[simp] theorem State.drainRx_txbuf (n : Nat) (s : State) :
    (State.drainRx n s).txbuf = s.txbuf := rfl
@[simp] theorem State.drainRx_hdr (n : Nat) (s : State) :
    (State.drainRx n s).hdr = s.hdr := rfl
@[simp] theorem State.drainRx_rst (n : Nat) (s : State) :
    (State.drainRx n s).rst = s.rst := rfl
@[simp] theorem State.drainRx_txStream (n : Nat) (s : State) :
    (State.drainRx n s).txStream = s.txStream := rfl
@[simp] theorem State.drainRx_rxStream (n : Nat) (s : State) :
    (State.drainRx n s).rxStream = s.rxStream.drop n := rfl
@[simp] theorem State.drainRx_answer (n : Nat) (s : State) :
    (State.drainRx n s).answer = s.answer := rfl
@[simp] theorem State.drainRx_inputs (n : Nat) (s : State) :
    (State.drainRx n s).inputs = s.inputs := rfl
@[simp] theorem State.drainRx_rdata (n : Nat) (s : State) :
    (State.drainRx n s).rdata = s.rdata := rfl
@[simp] theorem State.drainRx_resets (n : Nat) (s : State) :
    (State.drainRx n s).resets = s.resets := rfl
@[simp] theorem State.drainRx_freeReads (n : Nat) (s : State) :
    (State.drainRx n s).freeReads = s.freeReads := rfl

/-! ### `State.withInputs` -/

@[simp] theorem State.withInputs_cmd (r : List Input) (s : State) :
    (State.withInputs r s).cmd = s.cmd := rfl
@[simp] theorem State.withInputs_status (r : List Input) (s : State) :
    (State.withInputs r s).status = s.status := rfl
@[simp] theorem State.withInputs_info (r : List Input) (s : State) :
    (State.withInputs r s).info = s.info := rfl
@[simp] theorem State.withInputs_result (r : List Input) (s : State) :
    (State.withInputs r s).result = s.result := rfl
@[simp] theorem State.withInputs_rlen (r : List Input) (s : State) :
    (State.withInputs r s).rlen = s.rlen := rfl
@[simp] theorem State.withInputs_done (r : List Input) (s : State) :
    (State.withInputs r s).done = s.done := rfl
@[simp] theorem State.withInputs_cmdOvr (r : List Input) (s : State) :
    (State.withInputs r s).cmdOvr = s.cmdOvr := rfl
@[simp] theorem State.withInputs_phase (r : List Input) (s : State) :
    (State.withInputs r s).phase = s.phase := rfl
@[simp] theorem State.withInputs_opl (r : List Input) (s : State) :
    (State.withInputs r s).opl = s.opl := rfl
@[simp] theorem State.withInputs_txlen (r : List Input) (s : State) :
    (State.withInputs r s).txlen = s.txlen := rfl
@[simp] theorem State.withInputs_mem (r : List Input) (s : State) :
    (State.withInputs r s).mem = s.mem := rfl
@[simp] theorem State.withInputs_txbuf (r : List Input) (s : State) :
    (State.withInputs r s).txbuf = s.txbuf := rfl
@[simp] theorem State.withInputs_hdr (r : List Input) (s : State) :
    (State.withInputs r s).hdr = s.hdr := rfl
@[simp] theorem State.withInputs_rst (r : List Input) (s : State) :
    (State.withInputs r s).rst = s.rst := rfl
@[simp] theorem State.withInputs_txStream (r : List Input) (s : State) :
    (State.withInputs r s).txStream = s.txStream := rfl
@[simp] theorem State.withInputs_rxStream (r : List Input) (s : State) :
    (State.withInputs r s).rxStream = s.rxStream := rfl
@[simp] theorem State.withInputs_answer (r : List Input) (s : State) :
    (State.withInputs r s).answer = s.answer := rfl
@[simp] theorem State.withInputs_inputs (r : List Input) (s : State) :
    (State.withInputs r s).inputs = r := rfl
@[simp] theorem State.withInputs_rdata (r : List Input) (s : State) :
    (State.withInputs r s).rdata = s.rdata := rfl
@[simp] theorem State.withInputs_resets (r : List Input) (s : State) :
    (State.withInputs r s).resets = s.resets := rfl
@[simp] theorem State.withInputs_freeReads (r : List Input) (s : State) :
    (State.withInputs r s).freeReads = s.freeReads := rfl

/-! ### `State.drawStale` -/

@[simp] theorem State.drawStale_cmd (s : State) :
    (State.drawStale s).cmd = s.cmd := rfl
@[simp] theorem State.drawStale_status (s : State) :
    (State.drawStale s).status = s.status := rfl
@[simp] theorem State.drawStale_info (s : State) :
    (State.drawStale s).info = s.info := rfl
@[simp] theorem State.drawStale_result (s : State) :
    (State.drawStale s).result = s.result := rfl
@[simp] theorem State.drawStale_rlen (s : State) :
    (State.drawStale s).rlen = s.rlen := rfl
@[simp] theorem State.drawStale_done (s : State) :
    (State.drawStale s).done = s.done := rfl
@[simp] theorem State.drawStale_cmdOvr (s : State) :
    (State.drawStale s).cmdOvr = s.cmdOvr := rfl
@[simp] theorem State.drawStale_phase (s : State) :
    (State.drawStale s).phase = s.phase := rfl
@[simp] theorem State.drawStale_opl (s : State) :
    (State.drawStale s).opl = s.opl := rfl
@[simp] theorem State.drawStale_txlen (s : State) :
    (State.drawStale s).txlen = s.txlen := rfl
@[simp] theorem State.drawStale_mem (s : State) :
    (State.drawStale s).mem = s.mem := rfl
@[simp] theorem State.drawStale_txbuf (s : State) :
    (State.drawStale s).txbuf = s.txbuf := rfl
@[simp] theorem State.drawStale_hdr (s : State) :
    (State.drawStale s).hdr = s.hdr := rfl
@[simp] theorem State.drawStale_rst (s : State) :
    (State.drawStale s).rst = s.rst := rfl
@[simp] theorem State.drawStale_txStream (s : State) :
    (State.drawStale s).txStream = s.txStream := rfl
@[simp] theorem State.drawStale_rxStream (s : State) :
    (State.drawStale s).rxStream = s.rxStream := rfl
@[simp] theorem State.drawStale_answer (s : State) :
    (State.drawStale s).answer = s.answer := rfl
@[simp] theorem State.drawStale_inputs (s : State) :
    (State.drawStale s).inputs = s.inputs := rfl
@[simp] theorem State.drawStale_rdata (s : State) :
    (State.drawStale s).rdata = s.rdata := rfl
@[simp] theorem State.drawStale_resets (s : State) :
    (State.drawStale s).resets = s.resets := rfl
@[simp] theorem State.drawStale_freeReads (s : State) :
    (State.drawStale s).freeReads = s.freeReads + 1 := rfl

/-! ### `State.store` into each buffer -/

@[simp] theorem State.store_pbuf_mem (i : Nat) (bs : List Byte) (s : State) :
    (State.store .pbuf i bs s).mem = Memory.writeBytes s.mem i bs := rfl
@[simp] theorem State.store_pbuf_txbuf (i : Nat) (bs : List Byte) (s : State) :
    (State.store .pbuf i bs s).txbuf = s.txbuf := rfl
@[simp] theorem State.store_pbuf_hdr (i : Nat) (bs : List Byte) (s : State) :
    (State.store .pbuf i bs s).hdr = s.hdr := rfl
@[simp] theorem State.store_rbuf_mem (i : Nat) (bs : List Byte) (s : State) :
    (State.store .rbuf i bs s).mem = Memory.writeBytes s.mem (0x100 + i) bs := rfl
@[simp] theorem State.store_rbuf_txbuf (i : Nat) (bs : List Byte) (s : State) :
    (State.store .rbuf i bs s).txbuf = s.txbuf := rfl
@[simp] theorem State.store_rbuf_hdr (i : Nat) (bs : List Byte) (s : State) :
    (State.store .rbuf i bs s).hdr = s.hdr := rfl
@[simp] theorem State.store_txbuf_txbuf (i : Nat) (bs : List Byte) (s : State) :
    (State.store .txbuf i bs s).txbuf = Memory.writeBytes s.txbuf i bs := rfl
@[simp] theorem State.store_txbuf_mem (i : Nat) (bs : List Byte) (s : State) :
    (State.store .txbuf i bs s).mem = s.mem := rfl
@[simp] theorem State.store_txbuf_hdr (i : Nat) (bs : List Byte) (s : State) :
    (State.store .txbuf i bs s).hdr = s.hdr := rfl
@[simp] theorem State.store_hdr_hdr (i : Nat) (bs : List Byte) (s : State) :
    (State.store .hdr i bs s).hdr = Memory.writeBytes s.hdr i bs := rfl
@[simp] theorem State.store_hdr_mem (i : Nat) (bs : List Byte) (s : State) :
    (State.store .hdr i bs s).mem = s.mem := rfl
@[simp] theorem State.store_hdr_txbuf (i : Nat) (bs : List Byte) (s : State) :
    (State.store .hdr i bs s).txbuf = s.txbuf := rfl

@[simp] theorem State.store_cmd (b : Buffer) (i : Nat) (bs : List Byte) (s : State) :
    (State.store b i bs s).cmd = s.cmd := by cases b <;> rfl
@[simp] theorem State.store_status (b : Buffer) (i : Nat) (bs : List Byte) (s : State) :
    (State.store b i bs s).status = s.status := by cases b <;> rfl
@[simp] theorem State.store_info (b : Buffer) (i : Nat) (bs : List Byte) (s : State) :
    (State.store b i bs s).info = s.info := by cases b <;> rfl
@[simp] theorem State.store_result (b : Buffer) (i : Nat) (bs : List Byte) (s : State) :
    (State.store b i bs s).result = s.result := by cases b <;> rfl
@[simp] theorem State.store_rlen (b : Buffer) (i : Nat) (bs : List Byte) (s : State) :
    (State.store b i bs s).rlen = s.rlen := by cases b <;> rfl
@[simp] theorem State.store_done (b : Buffer) (i : Nat) (bs : List Byte) (s : State) :
    (State.store b i bs s).done = s.done := by cases b <;> rfl
@[simp] theorem State.store_cmdOvr (b : Buffer) (i : Nat) (bs : List Byte) (s : State) :
    (State.store b i bs s).cmdOvr = s.cmdOvr := by cases b <;> rfl
@[simp] theorem State.store_phase (b : Buffer) (i : Nat) (bs : List Byte) (s : State) :
    (State.store b i bs s).phase = s.phase := by cases b <;> rfl
@[simp] theorem State.store_opl (b : Buffer) (i : Nat) (bs : List Byte) (s : State) :
    (State.store b i bs s).opl = s.opl := by cases b <;> rfl
@[simp] theorem State.store_txlen (b : Buffer) (i : Nat) (bs : List Byte) (s : State) :
    (State.store b i bs s).txlen = s.txlen := by cases b <;> rfl
@[simp] theorem State.store_rst (b : Buffer) (i : Nat) (bs : List Byte) (s : State) :
    (State.store b i bs s).rst = s.rst := by cases b <;> rfl
@[simp] theorem State.store_txStream (b : Buffer) (i : Nat) (bs : List Byte) (s : State) :
    (State.store b i bs s).txStream = s.txStream := by cases b <;> rfl
@[simp] theorem State.store_rxStream (b : Buffer) (i : Nat) (bs : List Byte) (s : State) :
    (State.store b i bs s).rxStream = s.rxStream := by cases b <;> rfl
@[simp] theorem State.store_answer (b : Buffer) (i : Nat) (bs : List Byte) (s : State) :
    (State.store b i bs s).answer = s.answer := by cases b <;> rfl
@[simp] theorem State.store_inputs (b : Buffer) (i : Nat) (bs : List Byte) (s : State) :
    (State.store b i bs s).inputs = s.inputs := by cases b <;> rfl
@[simp] theorem State.store_rdata (b : Buffer) (i : Nat) (bs : List Byte) (s : State) :
    (State.store b i bs s).rdata = s.rdata := by cases b <;> rfl
@[simp] theorem State.store_resets (b : Buffer) (i : Nat) (bs : List Byte) (s : State) :
    (State.store b i bs s).resets = s.resets := by cases b <;> rfl
@[simp] theorem State.store_freeReads (b : Buffer) (i : Nat) (bs : List Byte) (s : State) :
    (State.store b i bs s).freeReads = s.freeReads := by cases b <;> rfl

end Sys2Proof.Machine
end

