-- ==== Sys2Proof/Laws/Ops.lean ====
section
/-! SUPPORT. One lemma per shared operation that says once everything it can do, for later proofs to cite instead of
unfolding it. -/

namespace Sys2Proof.Machine

/-! ### The buffers -/

@[simp] theorem State.load_length (b : Buffer) (n : Nat) (s : State) : (s.load b n).length = n := by
  simp [State.load]

theorem State.load_getElem? (b : Buffer) {n i : Nat} (s : State) (h : i < n) :
    (s.load b n)[i]? = some (s.byteAt b i) := by
  simp [State.load, h]

/-- A buffer that has just been stored into from index 0 reads back what was stored. -/
theorem State.load_store (b : Buffer) (bs : List Byte) (s : State) :
    (s.store b 0 bs).load b bs.length = bs := by
  apply List.ext_getElem?
  intro i
  by_cases h : i < bs.length
  · rw [State.load_getElem? b _ h]
    cases b
    · simp only [State.store, State.byteAt]
      rw [Memory.read_writeBytes, if_pos (by omega)]; simp [h]
    · simp only [State.store, State.byteAt]
      rw [Memory.read_writeBytes, if_pos (by omega)]; simp [h]
    · simp only [State.store, State.byteAt]
      rw [Memory.read_writeBytes, if_pos (by omega)]; simp [h]
    · simp only [State.store, State.byteAt]
      rw [Memory.read_writeBytes, if_pos (by omega)]; simp [h]
  · rw [List.getElem?_eq_none (by simpa using Nat.le_of_not_lt h),
      List.getElem?_eq_none (by omega)]

/-- `byteAt` depends only on the buffer's own memory and on the number of resets. -/
theorem State.byteAt_congr {s t : State} (b : Buffer) (i : Nat) (hm : s.mem = t.mem)
    (hx : s.txbuf = t.txbuf) (hh : s.hdr = t.hdr) (hr : s.resets = t.resets) :
    s.byteAt b i = t.byteAt b i := by
  cases b <;> simp [State.byteAt, hm, hx, hh, hr]

/-- Storing a payload in RBUF leaves every byte of PBUF (R29: the hardware never writes PBUF). -/
theorem State.byteAt_pbuf_store_rbuf (k i : Nat) (bs : List Byte) (s : State) (h : i < 0x100) :
    (s.store .rbuf k bs).byteAt .pbuf i = s.byteAt .pbuf i := by
  simp only [State.store, State.byteAt]
  rw [Memory.read_writeBytes, if_neg (by omega)]

/-- A request frame that has just been launched is what the TX step will send. -/
theorem State.txFrame_launch (op : BitVec 4) (f : List Byte) (s : State) (h : f.length < 512) :
    (s.launch op f).txFrame = f := by
  have hn : (BitVec.ofNat 9 f.length).toNat = f.length := by
    rw [BitVec.toNat_ofNat]; omega
  have : (s.launch op f).txFrame = (s.store .txbuf 0 f).load .txbuf f.length := by
    simp only [State.txFrame, State.launch_txlen, hn, State.load]
    apply List.map_congr_left
    intro i _
    exact State.byteAt_congr _ _ rfl rfl rfl rfl
  rw [this, State.load_store]

/-- A header that has just been latched is what the RXBODY step will see. -/
theorem State.header_latchHeader (r : List Byte) (s : State) (h : r.length = 3) :
    (s.latchHeader r).header = r := by
  have : (s.latchHeader r).header = (s.store .hdr 0 r).load .hdr r.length := by
    simp only [State.header, State.load, h]
    apply List.map_congr_left
    intro i _
    exact State.byteAt_congr _ _ rfl rfl rfl rfl
  rw [this, State.load_store]

/-- A payload that has just been stored is the valid part of RBUF (R32). -/
theorem State.payload_storePayload (p : List Byte) (s : State) (h : p.length < 256) :
    (s.storePayload p).load .rbuf (s.storePayload p).rlen.toNat = p := by
  have hn : (s.storePayload p).rlen.toNat = p.length := by
    rw [State.storePayload_rlen, BitVec.toNat_ofNat]; omega
  have : (s.storePayload p).load .rbuf p.length = (s.store .rbuf 0 p).load .rbuf p.length := by
    simp only [State.load]
    apply List.map_congr_left
    intro i _
    exact State.byteAt_congr _ _ rfl rfl rfl rfl
  rw [hn, this, State.load_store]

/-! ### The transport primitives -/

/-- Everything `XportWrite` can answer (R56). -/
theorem xportWrite_cases (bs : List Byte) (s : State) :
    (s.answer = none ∧ xportWrite bs s = .pending) ∨
    (∃ k, s.answer = some (.ok k) ∧
      xportWrite bs s = .done () (s.sendBytes bs)) ∨
    (∃ k, s.answer = some (.fail k) ∧
      xportWrite bs s = .failed (s.sendBytes (bs.take k))) := by
  unfold xportWrite
  split
  · exact .inl ⟨by assumption, rfl⟩
  · exact .inr (.inl ⟨_, by assumption, rfl⟩)
  · exact .inr (.inr ⟨_, by assumption, rfl⟩)

/-- Everything `XportRead` can answer (R57). -/
theorem xportRead_cases (n : Nat) (s : State) :
    (s.answer = none ∧ xportRead n s = .pending) ∨
    (∃ k, s.answer = some (.ok k) ∧
      xportRead n s = .done (s.rxStream.take (min n k)) (s.consume (min n k))) ∨
    (∃ k, s.answer = some (.fail k) ∧
      xportRead n s = .failed (s.consume (min n k))) := by
  unfold xportRead
  split
  · exact .inl ⟨by assumption, rfl⟩
  · exact .inr (.inl ⟨_, by assumption, rfl⟩)
  · exact .inr (.inr ⟨_, by assumption, rfl⟩)

/-! ### The steps -/

/-- Everything the accept step can do (R120). -/
theorem accept_cases (d : Descriptor) (request : Except Raise (List Byte)) (s : State) :
    (∃ r, request = .error r ∧ accept d request s = (s.beginOp d).enterError r) ∨
    (∃ f, request = .ok f ∧ accept d request s = (s.beginOp d).launch (opField d) f) := by
  cases request with
  | error r => exact .inl ⟨r, rfl, rfl⟩
  | ok f => exact .inr ⟨f, rfl, rfl⟩

/-- Everything the TX step can do (R121). -/
theorem txStep_cases (s : State) :
    (s.answer = none ∧ txStep s = s) ∨
    (∃ k, s.answer = some (.ok k) ∧ txStep s = (s.sendBytes s.txFrame).awaitHeader) ∨
    (∃ k, s.answer = some (.fail k) ∧
      txStep s = (s.sendBytes (s.txFrame.take k)).enterError ⟨.xportWriteFail, 0⟩) := by
  unfold txStep
  rcases xportWrite_cases s.txFrame s with ⟨h, h'⟩ | ⟨k, h, h'⟩ | ⟨k, h, h'⟩
  · exact .inl ⟨h, by rw [h']⟩
  · exact .inr (.inl ⟨k, h, by rw [h']⟩)
  · exact .inr (.inr ⟨k, h, by rw [h']⟩)

/-- Everything the RXHDR step of a read-type operation can do (R122). -/
theorem rxHeaderStep_cases (s : State) :
    (s.answer = none ∧ rxHeaderStep s = s) ∨
    (∃ k, s.answer = some (.fail k) ∧
      rxHeaderStep s = (s.consume (min 3 k)).enterError ⟨.xportReadFail, 0⟩) ∨
    (∃ k e, s.answer = some (.ok k) ∧ parseReadHdr (s.rxStream.take (min 3 k)) = .error e ∧
      rxHeaderStep s = (s.consume (min 3 k)).enterError e) ∨
    (∃ k l, s.answer = some (.ok k) ∧ s.rxStream.take (min 3 k) = [hdrResp, 0, l] ∧
      rxHeaderStep s = (s.consume (min 3 k)).latchHeader [hdrResp, 0, l]) := by
  unfold rxHeaderStep
  rcases xportRead_cases 3 s with ⟨h, h'⟩ | ⟨k, h, h'⟩ | ⟨k, h, h'⟩
  · exact .inl ⟨h, by rw [h']⟩
  · rw [h']
    cases hp : parseReadHdr (s.rxStream.take (min 3 k)) with
    | error e => exact .inr (.inr (.inl ⟨k, e, h, hp, by simp only [hp]⟩))
    | ok l =>
      have := (parseReadHdr_ok_iff _ _).mp hp
      exact .inr (.inr (.inr ⟨k, l, h, this, by simp only [hp]; rw [this]⟩))
  · exact .inr (.inl ⟨k, h, by rw [h']⟩)

/-- Everything the RXHDR step of a write-type operation can do (R122). -/
theorem rxAckStep_cases (s : State) :
    (s.answer = none ∧ rxAckStep s = s) ∨
    (∃ k, s.answer = some (.fail k) ∧
      rxAckStep s = (s.consume (min 3 k)).enterError ⟨.xportReadFail, 0⟩) ∨
    (∃ k e, s.answer = some (.ok k) ∧ parseAck (s.rxStream.take (min 3 k)) = .error e ∧
      rxAckStep s = (s.consume (min 3 k)).enterError e) ∨
    (∃ k, s.answer = some (.ok k) ∧ s.rxStream.take (min 3 k) = [hdrResp, 0, hdrResp] ∧
      rxAckStep s = (s.consume (min 3 k)).completeOk) := by
  unfold rxAckStep
  rcases xportRead_cases 3 s with ⟨h, h'⟩ | ⟨k, h, h'⟩ | ⟨k, h, h'⟩
  · exact .inl ⟨h, by rw [h']⟩
  · rw [h']
    cases hp : parseAck (s.rxStream.take (min 3 k)) with
    | error e => exact .inr (.inr (.inl ⟨k, e, h, hp, by simp only [hp]⟩))
    | ok u =>
      exact .inr (.inr (.inr ⟨k, h, (parseAck_ok_iff _).mp hp, by simp only [hp]⟩))
  · exact .inr (.inl ⟨k, h, by rw [h']⟩)

/-- Everything the RXBODY step can do (R123), for any `DECODE`. -/
theorem rxBodyStep_cases (dec : List Byte → State → Except Raise State) (s : State) :
    (s.byteAt .hdr 2 = 0 ∧ rxBodyStep dec s = s.withdrawAnswer.enterError ⟨.frameLengthZero, 0⟩) ∨
    (s.byteAt .hdr 2 ≠ 0 ∧ s.answer = none ∧ rxBodyStep dec s = s) ∨
    (∃ k, s.byteAt .hdr 2 ≠ 0 ∧ s.answer = some (.fail k) ∧ rxBodyStep dec s =
      (s.consume (min (s.byteAt .hdr 2).toNat k)).enterError ⟨.xportReadFail, 0⟩) ∨
    (∃ k e, s.byteAt .hdr 2 ≠ 0 ∧ s.answer = some (.ok k) ∧
      parseReadBody s.header (s.rxStream.take (min (s.byteAt .hdr 2).toNat k)) = .error e ∧
      rxBodyStep dec s = (s.consume (min (s.byteAt .hdr 2).toNat k)).enterError e) ∨
    (∃ k p e, s.byteAt .hdr 2 ≠ 0 ∧ s.answer = some (.ok k) ∧
      parseReadBody s.header (s.rxStream.take (min (s.byteAt .hdr 2).toNat k)) = .ok p ∧
      dec p ((s.consume (min (s.byteAt .hdr 2).toNat k)).storePayload p) = .error e ∧
      rxBodyStep dec s = ((s.consume (min (s.byteAt .hdr 2).toNat k)).storePayload p).enterError e) ∨
    (∃ k p t, s.byteAt .hdr 2 ≠ 0 ∧ s.answer = some (.ok k) ∧
      parseReadBody s.header (s.rxStream.take (min (s.byteAt .hdr 2).toNat k)) = .ok p ∧
      dec p ((s.consume (min (s.byteAt .hdr 2).toNat k)).storePayload p) = .ok t ∧
      rxBodyStep dec s = t.completeOk) := by
  unfold rxBodyStep
  by_cases h0 : s.byteAt .hdr 2 = 0
  · exact .inl ⟨h0, by rw [if_pos h0]⟩
  · rw [if_neg h0]
    refine .inr ?_
    rcases xportRead_cases (s.byteAt .hdr 2).toNat s with ⟨h, h'⟩ | ⟨k, h, h'⟩ | ⟨k, h, h'⟩
    · exact .inl ⟨h0, h, by rw [h']⟩
    · refine .inr (.inr ?_)
      have hh : (s.consume (min (s.byteAt .hdr 2).toNat k)).header = s.header := rfl
      rw [h']
      simp only [hh]
      cases hp : parseReadBody s.header (s.rxStream.take (min (s.byteAt .hdr 2).toNat k)) with
      | error e => exact .inl ⟨k, e, h0, h, hp, rfl⟩
      | ok p =>
        simp only
        cases hd : dec p ((s.consume (min (s.byteAt .hdr 2).toNat k)).storePayload p) with
        | error e =>
          exact .inr (.inl ⟨k, p, e, h0, h, hp, hd, rfl⟩)
        | ok t =>
          exact .inr (.inr ⟨k, p, t, h0, h, hp, hd, rfl⟩)
    · exact .inr (.inl ⟨k, h0, h, by rw [h']⟩)

/-- The RXBODY step on a segment of the declared length with the right checksum (R107, R123): the payload is stored, and
`DECODE` says how the operation ends. -/
theorem rxBodyStep_segment {s : State} {k : Nat} {p rest : List Byte}
    (hl : (s.byteAt .hdr 2).toNat = p.length + 1) (ha : s.answer = some (.ok k)) (hk : p.length + 1 ≤ k)
    (hr : s.rxStream = p ++ [checksum (s.header ++ p)] ++ rest)
    (dec : List Byte → State → Except Raise State) :
    rxBodyStep dec s =
      match dec p ((s.consume (p.length + 1)).storePayload p) with
      | .error e => ((s.consume (p.length + 1)).storePayload p).enterError e
      | .ok t => t.completeOk := by
  have hm : min (p.length + 1) k = p.length + 1 := by omega
  have h0 : s.byteAt .hdr 2 ≠ 0 := by
    intro h
    rw [h] at hl
    simp at hl
  have hg : s.header.getD 2 0 = s.byteAt .hdr 2 := rfl
  unfold rxBodyStep
  rw [if_neg h0]
  simp only [xportRead, ha, hl, hm]
  have ht : List.take (p.length + 1) s.rxStream = p ++ [checksum (s.header ++ p)] := by
    rw [hr, List.take_left']
    simp
  have hh : (s.consume (p.length + 1)).header = s.header := rfl
  have hp : parseReadBody s.header (p ++ [checksum (s.header ++ p)]) = .ok p :=
    (parseReadBody_ok_iff _ _ p (by rw [hg, hl]; omega)).mpr ⟨by rw [hg, hl], rfl⟩
  cases hd : dec p ((s.consume (p.length + 1)).storePayload p) <;> simp only [ht, hh, hp, hd]

/-- A state whose host address space took a payload at RBUF holds it there and nothing else new. -/
theorem storesPayload_of_mem {s t : State} {p : List Byte}
    (hm : t.mem = Memory.writeBytes s.mem 0x100 p) (hr : t.resets = s.resets) : StoresPayload s t p := by
  constructor
  · have : t.load .rbuf p.length = (s.store .rbuf 0 p).load .rbuf p.length := by
      simp only [State.load]
      apply List.map_congr_left
      intro i _
      simp only [State.byteAt, hm, hr]
      rfl
    rw [this, State.load_store]
  · intro a ha
    rw [hm, Memory.read_writeBytes_outside _ _ _ _ ha]

/-! ### The meanings, by phase -/

theorem exec_idle (i : Instr) {s : State} (h : s.phase = .idle) :
    exec i s = .next (accept (descriptor i) (requestOf i s) s) := by
  cases i <;> simp [exec, execRead, execWrite, execGetPower, execSetPower, execSetPicture,
    execGetInput, execSetInput, readTypeStep, writeTypeStep, requestOf, h]

theorem exec_tx (i : Instr) {s : State} (h : s.phase = .tx) : exec i s = .next (txStep s) := by
  cases i <;> simp [exec, execRead, execWrite, execGetPower, execSetPower, execSetPicture,
    execGetInput, execSetInput, readTypeStep, writeTypeStep, h]

theorem exec_rxhdr_read (i : Instr) {s : State} (hi : isReadType i = true) (h : s.phase = .rxhdr) :
    exec i s = .next (rxHeaderStep s) := by
  cases i <;> simp [isReadType, readTypeCode, opCode] at hi <;>
    simp [exec, execRead, execGetPower, execGetInput, readTypeStep, h]

theorem exec_rxhdr_write (i : Instr) {s : State} (hi : isReadType i = false) (h : s.phase = .rxhdr) :
    exec i s = .next (rxAckStep s) := by
  cases i <;> simp [isReadType, readTypeCode, opCode] at hi <;>
    simp [exec, execWrite, execSetPower, execSetPicture, execSetInput, writeTypeStep, h]

theorem exec_rxbody_read (i : Instr) {s : State} (hi : isReadType i = true) (h : s.phase = .rxbody) :
    exec i s = .next (rxBodyStep (decodeOf i) s) := by
  cases i <;> simp [isReadType, readTypeCode, opCode] at hi <;>
    simp [exec, execRead, execGetPower, execGetInput, readTypeStep, decodeOf, h]

theorem exec_rxbody_write (i : Instr) {s : State} (hi : isReadType i = false) (h : s.phase = .rxbody) :
    exec i s = .fault .noBodyStep := by
  cases i <;> simp [isReadType, readTypeCode, opCode] at hi <;>
    simp [exec, execWrite, execSetPower, execSetPicture, execSetInput, writeTypeStep, h]

/-- An operation whose request is `frame` launches it (R120). -/
theorem exec_launches {s : State} {i : Instr} {frame : List Byte} (hl : frame.length ≤ 259)
    (hp : s.phase = .idle) (hq : requestOf i s = .ok frame) :
    ∃ t, exec i s = .next t ∧ Launches s t (descriptor i) frame := by
  refine ⟨_, exec_idle i hp, ?_⟩
  rw [hq]
  refine ⟨State.txFrame_launch _ _ _ (by omega), ?_, rfl⟩
  intro j hj
  simp only [accept, State.byteAt, State.launch_txbuf, State.launch_resets, State.beginOp_resets,
    State.beginOp_txbuf]
  rw [Memory.read_writeBytes_outside _ _ _ _ (by omega)]

/-- An operation whose request is refused ends in its accept step (R120, R160). -/
theorem exec_refused {s : State} {i : Instr} {e : Error} (hp : s.phase = .idle)
    (hq : requestOf i s = .error ⟨e, 0⟩) :
    exec i s = .next (s.refusedAtAccept (descriptor i) e.code) := by
  rw [exec_idle i hp, hq]
  rfl

end Sys2Proof.Machine
end

