-- ==== Sys2Proof/Laws/PerInstr.lean ====
section
/-! SUPPORT. Statements about every operation as syntax, made once per constructor: the fields its descriptor carries, and
what its well-formedness means. -/

namespace Sys2Proof.Laws

open Sys2Proof.Machine

/-- The two fields below `OP` of an operation (R78). -/
def fieldsOf : Instr → BitVec 12 × BitVec 16
  | .read len func => (len, func)
  | .write len func => (len, func)
  | .getPower len arg => (len, arg)
  | .setPower len arg => (len, arg)
  | .setPicture len arg => (len, arg)
  | .getInput len arg => (len, arg)
  | .setInput len arg => (len, arg)

/-- R78, R80: a descriptor is four bytes, and carries the operation's code and both of its fields. -/
def Fields.Statement (i : Instr) : Prop :=
  opField (descriptor i) = opCode i ∧ lenField (descriptor i) = (fieldsOf i).1 ∧
    argField (descriptor i) = (fieldsOf i).2 ∧ (encode i).length = 4

theorem Fields.read (len : BitVec 12) (func : BitVec 16) : Fields.Statement (.read len func) :=
  ⟨opField_pack _ _ _, lenField_pack _ _ _, argField_pack _ _ _, rfl⟩

theorem Fields.write (len : BitVec 12) (func : BitVec 16) : Fields.Statement (.write len func) :=
  ⟨opField_pack _ _ _, lenField_pack _ _ _, argField_pack _ _ _, rfl⟩

theorem Fields.getPower (len : BitVec 12) (arg : BitVec 16) : Fields.Statement (.getPower len arg) :=
  ⟨opField_pack _ _ _, lenField_pack _ _ _, argField_pack _ _ _, rfl⟩

theorem Fields.setPower (len : BitVec 12) (arg : BitVec 16) : Fields.Statement (.setPower len arg) :=
  ⟨opField_pack _ _ _, lenField_pack _ _ _, argField_pack _ _ _, rfl⟩

theorem Fields.setPicture (len : BitVec 12) (arg : BitVec 16) : Fields.Statement (.setPicture len arg) :=
  ⟨opField_pack _ _ _, lenField_pack _ _ _, argField_pack _ _ _, rfl⟩

theorem Fields.getInput (len : BitVec 12) (arg : BitVec 16) : Fields.Statement (.getInput len arg) :=
  ⟨opField_pack _ _ _, lenField_pack _ _ _, argField_pack _ _ _, rfl⟩

theorem Fields.setInput (len : BitVec 12) (arg : BitVec 16) : Fields.Statement (.setInput len arg) :=
  ⟨opField_pack _ _ _, lenField_pack _ _ _, argField_pack _ _ _, rfl⟩

/-- R79, R120: an operation is well formed exactly when it has a request frame, whatever the state. -/
def Legality.Statement (i : Instr) : Prop :=
  ∀ s : State, i.WellFormed ↔ ∃ frame : List Byte, requestOf i s = .ok frame

theorem iff_exists_ok {P : Prop} (f : List Byte) (h : P) :
    P ↔ ∃ frame : List Byte, (Except.ok f : Except Raise (List Byte)) = .ok frame :=
  ⟨fun _ => ⟨f, rfl⟩, fun _ => h⟩

theorem iff_exists_error {P : Prop} (r : Raise) (h : ¬ P) :
    P ↔ ∃ frame : List Byte, (Except.error r : Except Raise (List Byte)) = .ok frame :=
  ⟨fun hp => absurd hp h, fun ⟨_, hf⟩ => by cases hf⟩

theorem iff_exists_false {P : Prop} (h : ¬ P) : P ↔ ∃ _ : List Byte, False :=
  ⟨fun hp => absurd hp h, fun ⟨_, hf⟩ => hf.elim⟩

theorem Legality.read (len : BitVec 12) (func : BitVec 16) : Legality.Statement (.read len func) := by
  intro s
  simp only [Instr.WellFormed, Instr.wellFormed, requestOf, requestRead, buildRead, illegalArg,
    Bool.and_eq_true, decide_eq_true_eq]
  split_ifs with h h'
  · exact iff_exists_false (by omega)
  · exact iff_exists_ok _ ⟨h, by omega⟩
  · exact iff_exists_false (fun hp => h hp.1)

theorem Legality.write (len : BitVec 12) (func : BitVec 16) : Legality.Statement (.write len func) := by
  intro s
  simp only [Instr.WellFormed, Instr.wellFormed, requestOf, requestWrite, buildWrite,
    State.load_length, Bool.and_eq_true, decide_eq_true_eq]
  split_ifs with h h' h''
  · exact iff_exists_false (by omega)
  · exact iff_exists_false (by omega)
  · omega
  · exact iff_exists_ok _ (by omega)

theorem Legality.getPower (len : BitVec 12) (arg : BitVec 16) : Legality.Statement (.getPower len arg) := by
  intro s
  simp only [Instr.WellFormed, Instr.wellFormed, requestOf, requestGetPower, illegalArg,
    Bool.and_eq_true, decide_eq_true_eq]
  split_ifs with h
  · exact iff_exists_ok _ h
  · exact iff_exists_false h

theorem Legality.setPower (len : BitVec 12) (arg : BitVec 16) : Legality.Statement (.setPower len arg) := by
  intro s
  simp only [Instr.WellFormed, Instr.wellFormed, requestOf, requestSetPower, illegalArg,
    Bool.and_eq_true, decide_eq_true_eq]
  split_ifs with h
  · exact iff_exists_ok _ h
  · exact iff_exists_false h

theorem Legality.setPicture (len : BitVec 12) (arg : BitVec 16) :
    Legality.Statement (.setPicture len arg) := by
  intro s
  simp only [Instr.WellFormed, Instr.wellFormed, requestOf, requestSetPicture, illegalArg,
    Bool.and_eq_true, decide_eq_true_eq]
  have hl : PictureMode.all.length = 8 := rfl
  split_ifs with h
  · cases hm : pictureOfIndex arg.toNat with
    | none =>
      have : PictureMode.all.length ≤ arg.toNat := List.getElem?_eq_none_iff.mp hm
      exact iff_exists_error _ (by omega)
    | some m =>
      have : arg.toNat < PictureMode.all.length := (List.getElem?_eq_some_iff.mp hm).1
      exact iff_exists_ok _ ⟨h, by omega⟩
  · exact iff_exists_false (fun hp => h hp.1)

theorem Legality.getInput (len : BitVec 12) (arg : BitVec 16) : Legality.Statement (.getInput len arg) := by
  intro s
  simp only [Instr.WellFormed, Instr.wellFormed, requestOf, requestGetInput, illegalArg,
    Bool.and_eq_true, decide_eq_true_eq]
  split_ifs with h
  · exact iff_exists_ok _ h
  · exact iff_exists_false h

theorem Legality.setInput (len : BitVec 12) (arg : BitVec 16) :
    Legality.Statement (.setInput len arg) := by
  intro s
  simp only [Instr.WellFormed, Instr.wellFormed, requestOf, requestSetInput, illegalArg,
    Bool.and_eq_true, decide_eq_true_eq]
  have hl : InputMode.all.length = 13 := rfl
  split_ifs with h
  · cases hm : inputOfIndex arg.toNat with
    | none =>
      have : InputMode.all.length ≤ arg.toNat := List.getElem?_eq_none_iff.mp hm
      exact iff_exists_error _ (by omega)
    | some m =>
      have : arg.toNat < InputMode.all.length := (List.getElem?_eq_some_iff.mp hm).1
      exact iff_exists_ok _ ⟨h, by omega⟩
  · exact iff_exists_false (fun hp => h hp.1)

end Sys2Proof.Laws
end

