-- ==== Sys2Proof/Laws/Step.lean ====
section
/-! SUPPORT. The laws of the host port and of one step: what a host access, a command write, a turn of the sequencer and a
reset can do. -/

namespace Sys2Proof.Machine

/-! ### The host port -/

/-- A one-byte read changes nothing but the count of free values drawn (R55). -/
theorem hostReadByte_frame (a : Nat) (s : State) :
    ∃ n, (hostReadByte a s).2 = { s with freeReads := n } := by
  unfold hostReadByte
  split <;> first
    | exact ⟨s.freeReads, rfl⟩
    | (split
       · exact ⟨s.freeReads, rfl⟩
       · exact ⟨s.freeReads + 1, rfl⟩)

/-- A read of any width changes nothing but the count of free values drawn, and returns as many bytes as asked for. -/
theorem hostReadBytes_frame (a n : Nat) (s : State) :
    (hostReadBytes a n s).1.length = n ∧ ∃ k, (hostReadBytes a n s).2 = { s with freeReads := k } := by
  induction n generalizing a s with
  | zero => exact ⟨rfl, s.freeReads, rfl⟩
  | succ n ih =>
    obtain ⟨k1, h1⟩ := hostReadByte_frame a s
    obtain ⟨hl, k2, h2⟩ := ih (a + 1) (hostReadByte a s).2
    refine ⟨by simp [hostReadBytes, hl], k2, ?_⟩
    simp only [hostReadBytes]
    rw [h2, h1]

/-- Everything a one-byte write can do (R20, R26, R29). -/
theorem hostWriteByte_cases (a : Nat) (v : Byte) (s : State) :
    (a < 0x100 ∧ hostWriteByte a v s = s.store .pbuf a [v]) ∨
    (a = 0x208 ∧ hostWriteByte a v s = s.clearFlags v) ∨
    (0x100 ≤ a ∧ a ≠ 0x208 ∧ hostWriteByte a v s = s) := by
  unfold hostWriteByte region
  by_cases h1 : a < 0x100
  · exact .inl ⟨h1, by rw [if_pos h1]⟩
  · by_cases h2 : a = 0x208
    · subst h2
      exact .inr (.inl ⟨rfl, rfl⟩)
    · refine .inr (.inr ⟨by omega, h2, ?_⟩)
      rw [if_neg h1]
      split_ifs <;> rfl

/-- A property of states that every one-byte write keeps is kept by a write of any width. -/
theorem hostWriteBytes_induct (P : State → Prop)
    (hP : ∀ a v s, P s → P (hostWriteByte a v s)) (a : Nat) (bs : List Byte) (s : State)
    (h : P s) : P (hostWriteBytes a bs s) := by
  induction bs generalizing a s with
  | nil => exact h
  | cons v vs ih => exact ih (a + 1) _ (hP a v s h)

/-- A host write outside the command write reaches PBUF and the two sticky flags, and nothing else. -/
theorem hostWriteBytes_frame (a : Nat) (bs : List Byte) (s : State) :
    ∃ m d c, hostWriteBytes a bs s = { s with mem := m, done := d, cmdOvr := c } ∧
      (s.done = false → d = false) := by
  refine hostWriteBytes_induct
    (fun t => ∃ m d c, t = { s with mem := m, done := d, cmdOvr := c } ∧ (s.done = false → d = false))
    ?_ a bs s ⟨s.mem, s.done, s.cmdOvr, rfl, id⟩
  rintro a v t ⟨m, d, c, rfl, hd⟩
  rcases hostWriteByte_cases a v { s with mem := m, done := d, cmdOvr := c } with
    ⟨-, h⟩ | ⟨-, h⟩ | ⟨-, -, h⟩
  · exact ⟨_, d, c, h, hd⟩
  · refine ⟨m, _, _, h, fun hs => ?_⟩
    simp [hd hs]
  · exact ⟨m, d, c, h, hd⟩

/-- A host write outside the command write leaves RBUF: every address at and above `0x100` reads as before. -/
theorem hostWriteBytes_read (a : Nat) (bs : List Byte) (s : State) (j : Nat) (hj : 0x100 ≤ j) :
    Memory.read (hostWriteBytes a bs s).mem j = Memory.read s.mem j := by
  refine hostWriteBytes_induct (fun t => Memory.read t.mem j = Memory.read s.mem j) ?_ a bs s rfl
  intro a v t ht
  rcases hostWriteByte_cases a v t with ⟨ha, h⟩ | ⟨-, h⟩ | ⟨-, -, h⟩ <;> rw [h]
  · rw [State.store_pbuf_mem, Memory.read_writeBytes_outside _ _ _ _ (by simp; omega)]
    exact ht
  · exact ht
  · exact ht

/-- Which addresses have a part in a wide access (U15). -/
theorem wideByteOk_iff (a : Nat) :
    wideByteOk a = true ↔ ¬ ((0x204 ≤ a ∧ a ≤ 0x208) ∨ 0x400 ≤ a) := by
  unfold wideByteOk region
  split_ifs <;> simp <;> omega

/-- The accesses without a meaning are those the model says it turns away (notes/assumptions/7.md). -/
theorem accessOk_eq_false_iff {a : Nat} (n : Nat) (ha : a < 0x400) :
    accessOk a n = false ↔ turnedAway a n := by
  unfold accessOk turnedAway
  by_cases hn : n = 1
  · simp [hn, ha]
  · simp only [if_neg hn, List.all_eq_false, List.mem_range, wideByteOk_iff, not_not]
    constructor
    · rintro ⟨k, hk, h⟩
      omega
    · rintro ⟨h1, ⟨h2, h3⟩ | h2⟩
      · exact ⟨0x204 - a, by omega, by omega⟩
      · exact ⟨n - 1, by omega, by omega⟩

/-! ### Commands and turns -/

theorem opCode_operation (i : Instr) : operationCode (opCode i) = true := by
  cases i <;> rfl

/-- Operation codes 1 to 7 decode (R80). -/
theorem decodeFields_of_operation {op : BitVec 4} (h : operationCode op = true) (len : BitVec 12)
    (arg : BitVec 16) : ∃ i, decodeFields op len arg = .ok i := by
  simp only [operationCode, Bool.and_eq_true, decide_eq_true_eq] at h
  obtain ⟨h1, h2⟩ := h
  unfold decodeFields
  generalize op.toNat = n at h1 h2
  interval_cases n <;> exact ⟨_, rfl⟩

theorem decode_error_of_reserved {d : Descriptor} (h : operationCode (opField d) = false) :
    ∃ e, decode (littleEndian d) = .error e := by
  rw [decode_littleEndian, decodeWord]
  cases hd : decodeFields (opField d) (lenField d) (argField d) with
  | error e => exact ⟨e, rfl⟩
  | ok i =>
    have := (decodeFields_ok hd).1
    rw [this, opCode_operation] at h
    cases h

@[simp] theorem descriptorOf_littleEndian (d : Descriptor) : descriptorOf (littleEndian d) = d := by
  simp only [descriptorOf, littleEndian]
  exact ofLittleEndian_littleEndian d

/-- Everything a command write of a descriptor can do (R21). -/
theorem issueCommand_cases (d : Descriptor) (s : State) :
    (s.phase ≠ .idle ∧ issueCommand (littleEndian d) s = .next s.setOverrun) ∨
    (s.phase = .idle ∧ operationCode (opField d) = false ∧
      issueCommand (littleEndian d) s = .next ((s.beginOp d).enterError ⟨.encIllegalOp, 0⟩)) ∨
    (∃ i, s.phase = .idle ∧ decodeWord d = .ok i ∧ descriptor i = d ∧
      issueCommand (littleEndian d) s = .next (accept d (requestOf i s) s)) := by
  unfold issueCommand
  cases hp : s.phase with
  | idle =>
    refine .inr ?_
    cases hop : operationCode (opField d) with
    | false =>
      obtain ⟨e, he⟩ := decode_error_of_reserved hop
      exact .inl ⟨rfl, rfl, by simp only [he, descriptorOf_littleEndian]; rfl⟩
    | true =>
      obtain ⟨i, hi⟩ := decodeFields_of_operation hop (lenField d) (argField d)
      have hw : decodeWord d = .ok i := hi
      have hd := descriptor_of_decodeWord hw
      refine .inr ⟨i, rfl, hw, hd, ?_⟩
      simp only [decode_littleEndian, hw, exec_idle i hp, hd]
  | tx => exact .inl ⟨by simp, rfl⟩
  | rxhdr => exact .inl ⟨by simp, rfl⟩
  | rxbody => exact .inl ⟨by simp, rfl⟩

/-- Four bytes are the bytes of the descriptor they spell. -/
theorem littleEndian_descriptorOf {bs : List Byte} (h : bs.length = 4) :
    littleEndian (descriptorOf bs) = bs := by
  match bs, h with
  | [b0, b1, b2, b3], _ =>
    simp only [descriptorOf, littleEndian, ofLittleEndian]
    congr 1
    · apply BitVec.eq_of_getLsbD_eq; intro i hi
      simp only [BitVec.getLsbD_append, BitVec.getLsbD_extractLsb']
      simp [hi]
    · congr 1
      · apply BitVec.eq_of_getLsbD_eq; intro i hi
        simp only [BitVec.getLsbD_append, BitVec.getLsbD_extractLsb']
        have h1 : ¬ 8 + i < 8 := by omega
        simp [hi]
      · congr 1
        · apply BitVec.eq_of_getLsbD_eq; intro i hi
          simp only [BitVec.getLsbD_append, BitVec.getLsbD_extractLsb']
          have h1 : ¬ 16 + i < 8 := by omega
          have h2 : ¬ 16 + i - 8 < 8 := by omega
          have h3 : 16 + i - 8 - 8 = i := by omega
          simp [hi, h1, h2, h3]
        · congr 1
          apply BitVec.eq_of_getLsbD_eq; intro i hi
          simp only [BitVec.getLsbD_append, BitVec.getLsbD_extractLsb']
          have h1 : ¬ 24 + i < 8 := by omega
          have h2 : ¬ 24 + i - 8 < 8 := by omega
          have h3 : ¬ 24 + i - 8 - 8 < 8 := by omega
          have h4 : 24 + i - 8 - 8 - 8 = i := by omega
          simp [hi, h1, h2, h3, h4]

/-- Everything the sequencer's turn can do (R27, R28). -/
theorem sequencerTurn_cases (x : Option Answer) (s : State) :
    (s.phase = .idle ∧ sequencerTurn x s = .next s) ∨
    (s.phase ≠ .idle ∧ operationCode s.opl = false ∧ sequencerTurn x s = .fault .noOperation) ∨
    (∃ i, s.phase ≠ .idle ∧ s.inFlight = .ok i ∧ opCode i = s.opl ∧
      sequencerTurn x s = exec i (s.offer x)) := by
  unfold sequencerTurn
  by_cases hp : s.phase = .idle
  · exact .inl ⟨hp, by rw [hp]⟩
  · refine .inr ?_
    cases hop : operationCode s.opl with
    | true =>
      obtain ⟨i, hi⟩ := decodeFields_of_operation hop (lenField s.cmd) (argField s.cmd)
      have hf : s.inFlight = .ok i := hi
      refine .inr ⟨i, hp, hf, (decodeFields_ok hi).1.symm, ?_⟩
      cases h : s.phase <;> simp_all
    | false =>
      refine .inl ⟨hp, rfl, ?_⟩
      cases hf : s.inFlight with
      | ok i =>
        have := (decodeFields_ok (show decodeFields s.opl (lenField s.cmd) (argField s.cmd) = .ok i from hf)).1
        rw [this, opCode_operation] at hop
        cases hop
      | error e => cases h : s.phase <;> simp_all

/-- Everything one step of an operation in flight can do (R121 to R123). -/
theorem exec_busy_cases (i : Instr) (s : State) (hp : s.phase ≠ .idle) :
    (s.phase = .tx ∧ exec i s = .next (txStep s)) ∨
    (s.phase = .rxhdr ∧ isReadType i = true ∧ exec i s = .next (rxHeaderStep s)) ∨
    (s.phase = .rxhdr ∧ isReadType i = false ∧ exec i s = .next (rxAckStep s)) ∨
    (s.phase = .rxbody ∧ isReadType i = true ∧ exec i s = .next (rxBodyStep (decodeOf i) s)) ∨
    (s.phase = .rxbody ∧ isReadType i = false ∧ exec i s = .fault .noBodyStep) := by
  cases h : s.phase with
  | idle => exact absurd h hp
  | tx => exact .inl ⟨rfl, exec_tx i h⟩
  | rxhdr =>
    cases hr : isReadType i with
    | true => exact .inr (.inl ⟨rfl, rfl, exec_rxhdr_read i hr h⟩)
    | false => exact .inr (.inr (.inl ⟨rfl, rfl, exec_rxhdr_write i hr h⟩))
  | rxbody =>
    cases hr : isReadType i with
    | true => exact .inr (.inr (.inr (.inl ⟨rfl, rfl, exec_rxbody_read i hr h⟩)))
    | false => exact .inr (.inr (.inr (.inr ⟨rfl, rfl, exec_rxbody_write i hr h⟩)))

/-- A step that the transport does not answer (R189): the operation waits, unless it is a read response of declared length 0,
which the RXBODY step refuses without a transport call (R123). -/
theorem exec_unanswered (i : Instr) {s t : State} (hp : s.phase ≠ .idle) (ha : s.answer = none)
    (h : exec i s = .next t) :
    t = s ∨ (s.phase = .rxbody ∧ s.byteAt .hdr 2 = 0 ∧ t = s.enterError ⟨.frameLengthZero, 0⟩) := by
  have hw : s.withdrawAnswer = s := by rw [State.withdrawAnswer, ← ha]
  rcases exec_busy_cases i s hp with ⟨_, hx⟩ | ⟨_, _, hx⟩ | ⟨_, _, hx⟩ | ⟨hph, _, hx⟩ | ⟨_, _, hx⟩ <;>
    rw [hx] at h <;> cases h
  · exact .inl (by simp [txStep, xportWrite, ha])
  · exact .inl (by simp [rxHeaderStep, xportRead, ha])
  · exact .inl (by simp [rxAckStep, xportRead, ha])
  · by_cases h0 : s.byteAt .hdr 2 = 0
    · exact .inr ⟨hph, h0, by simp [rxBodyStep, h0, hw]⟩
    · exact .inl (by simp only [rxBodyStep, if_neg h0, xportRead, ha])

/-- Where a step of an operation in flight can lead (R121 to R124, R160): it waits, hands the frame over, latches an accepted
header, ends with an error before or after the payload was stored, or completes. A receive step takes at most 255
bytes off the RX stream. -/
theorem exec_busy_next (i : Instr) {s t : State} (hp : s.phase ≠ .idle) (h : exec i s = .next t) :
    t = s ∨
    (s.phase = .tx ∧ t = (s.sendBytes s.txFrame).awaitHeader) ∨
    (∃ k, s.phase = .tx ∧ t = (s.sendBytes (s.txFrame.take k)).enterError ⟨.xportWriteFail, 0⟩) ∨
    (∃ l, s.phase = .rxhdr ∧ isReadType i = true ∧ t = (s.consume 3).latchHeader [hdrResp, 0, l]) ∨
    (∃ n e, s.phase ≠ .tx ∧ n ≤ 255 ∧ t = (s.consume n).enterError e) ∨
    (∃ n p e, s.phase = .rxbody ∧ n ≤ 255 ∧ p.length ≤ 254 ∧
      t = ((s.consume n).storePayload p).enterError e) ∨
    (s.phase = .rxhdr ∧ isReadType i = false ∧ t = (s.consume 3).completeOk) ∨
    (∃ n p r v, s.phase = .rxbody ∧ n ≤ 255 ∧ p.length ≤ 254 ∧ (r = s.result ∨ r.toNat ≤ 12) ∧
      t = (((s.consume n).storePayload p).setResultInfo r v).completeOk) := by
  have three : ∀ {r : List Byte} {k : Nat} {a b c : Byte}, r.take (min 3 k) = [a, b, c] → min 3 k = 3 := by
    intro r k a b c he
    have := congrArg List.length he
    simp only [List.length_take, List.length_cons, List.length_nil] at this
    omega
  have short : ∀ {h' seg p : List Byte}, parseReadBody h' seg = .ok p → h'.getD 2 0 ≠ (0 : Byte) →
      p.length ≤ 254 := by
    intro h' seg p hpp h0
    have h1 : (h'.getD 2 0).toNat ≠ 0 := fun hz => h0 (BitVec.eq_of_toNat_eq hz)
    have h2 := ((parseReadBody_ok_iff h' seg p (by omega)).mp hpp).1
    have := (h'.getD 2 0).isLt
    omega
  have hb : (s.byteAt .hdr 2).toNat < 256 := (s.byteAt .hdr 2).isLt
  rcases exec_busy_cases i s hp with ⟨hph, hx⟩ | ⟨hph, hr, hx⟩ | ⟨hph, hr, hx⟩ | ⟨hph, hr, hx⟩ |
    ⟨hph, hr, hx⟩ <;> rw [hx] at h <;> cases h
  · rcases txStep_cases s with ⟨_, hs⟩ | ⟨k, _, hs⟩ | ⟨k, _, hs⟩ <;> rw [hs]
    · exact .inl rfl
    · exact .inr (.inl ⟨hph, rfl⟩)
    · exact .inr (.inr (.inl ⟨k, hph, rfl⟩))
  · rcases rxHeaderStep_cases s with ⟨_, hs⟩ | ⟨k, _, hs⟩ | ⟨k, e, _, _, hs⟩ | ⟨k, l, _, hl, hs⟩ <;> rw [hs]
    · exact .inl rfl
    · exact .inr (.inr (.inr (.inr (.inl ⟨_, _, by simp [hph], by omega, rfl⟩))))
    · exact .inr (.inr (.inr (.inr (.inl ⟨_, _, by simp [hph], by omega, rfl⟩))))
    · rw [three hl]
      exact .inr (.inr (.inr (.inl ⟨l, hph, hr, rfl⟩)))
  · rcases rxAckStep_cases s with ⟨_, hs⟩ | ⟨k, _, hs⟩ | ⟨k, e, _, _, hs⟩ | ⟨k, _, hl, hs⟩ <;> rw [hs]
    · exact .inl rfl
    · exact .inr (.inr (.inr (.inr (.inl ⟨_, _, by simp [hph], by omega, rfl⟩))))
    · exact .inr (.inr (.inr (.inr (.inl ⟨_, _, by simp [hph], by omega, rfl⟩))))
    · rw [three hl]
      exact .inr (.inr (.inr (.inr (.inr (.inr (.inl ⟨hph, hr, rfl⟩))))))
  · rcases rxBodyStep_cases (decodeOf i) s with ⟨_, hs⟩ | ⟨_, _, hs⟩ | ⟨k, _, _, hs⟩ |
      ⟨k, e, _, _, _, hs⟩ | ⟨k, p, e, h0, _, hpp, _, hs⟩ | ⟨k, p, t, h0, _, hpp, hd, hs⟩ <;> rw [hs]
    · exact .inr (.inr (.inr (.inr (.inl ⟨0, _, by simp [hph], by omega, rfl⟩))))
    · exact .inl rfl
    · exact .inr (.inr (.inr (.inr (.inl ⟨_, _, by simp [hph], by omega, rfl⟩))))
    · exact .inr (.inr (.inr (.inr (.inl ⟨_, _, by simp [hph], by omega, rfl⟩))))
    · exact .inr (.inr (.inr (.inr (.inr (.inl ⟨_, p, _, hph, by omega, short hpp h0, rfl⟩)))))
    · rcases decodeOf_cases i p ((s.consume (min (s.byteAt .hdr 2).toNat k)).storePayload p) with
        ⟨r, v, hdd, hrr⟩ | ⟨e, _, v, hdd⟩ <;> rw [hdd] at hd <;> cases hd
      exact .inr (.inr (.inr (.inr (.inr (.inr (.inr
        ⟨_, p, r, v, hph, by omega, short hpp h0, hrr, rfl⟩))))))

/-- Everything one event of the schedule can do. -/
theorem applyInput_cases {e : Input} {s t : State} (h : applyInput e s = .next t) :
    (∃ a n bs k, e = .host (.read a n) ∧ bs.length = n ∧ t = { s with rdata := bs, freeReads := k }) ∨
    (∃ a bs, e = .host (.write a bs) ∧ s.rst = true ∧ t = s) ∨
    (∃ a bs, e = .host (.write a bs) ∧ s.rst = false ∧ t = hostWriteBytes a.toNat bs s) ∨
    (∃ d, e = commandWrite d ∧ s.rst = false ∧ s.phase ≠ .idle ∧ t = s.setOverrun) ∨
    (∃ d i, e = commandWrite d ∧ s.rst = false ∧ s.phase = .idle ∧ descriptor i = d ∧
      t = accept d (requestOf i s) s) ∨
    (∃ d, e = commandWrite d ∧ s.rst = false ∧ s.phase = .idle ∧ operationCode (opField d) = false ∧
      t = (s.beginOp d).enterError ⟨.encIllegalOp, 0⟩) ∨
    (∃ x, e = .turn x ∧ (s.rst = true ∨ s.phase = .idle) ∧ t = s) ∨
    (∃ x i, e = .turn x ∧ s.rst = false ∧ s.phase ≠ .idle ∧ opCode i = s.opl ∧
      exec i (s.offer x) = .next t) ∨
    (∃ bs, e = .device bs ∧ t = s.arrive bs) ∨
    (∃ n, e = .drain n ∧ t = s.drainRx n) ∨
    (∃ n, e = .resetOn n ∧ t = s.assertReset n) ∨
    (e = .resetOff ∧ t = s.releaseReset) := by
  cases e with
  | host acc =>
    cases acc with
    | read a n =>
      simp only [applyInput, hostAccess, hostRead] at h
      split at h
      · cases h
        obtain ⟨hl, k, hk⟩ := hostReadBytes_frame a.toNat n s
        exact .inl ⟨a, n, _, k, rfl, hl, by rw [hk]; rfl⟩
      · cases h
    | write a bs =>
      simp only [applyInput, hostAccess] at h
      split at h
      · rename_i hr
        cases h
        exact .inr (.inl ⟨a, bs, rfl, hr, rfl⟩)
      · rename_i hr
        have hr : s.rst = false := by simpa using hr
        split at h
        · rename_i hc
          simp only [isCommandWrite, Bool.and_eq_true, decide_eq_true_eq] at hc
          have he : Input.host (.write a bs) = commandWrite (descriptorOf bs) := by
            rw [commandWrite, littleEndian_descriptorOf hc.2]
            have : a = 0x200 := BitVec.eq_of_toNat_eq hc.1
            rw [this]
          rw [← littleEndian_descriptorOf hc.2] at h
          rcases issueCommand_cases (descriptorOf bs) s with ⟨hp, hx⟩ | ⟨hp, ho, hx⟩ | ⟨i, hp, _, hd, hx⟩ <;>
            rw [hx] at h <;> cases h
          · exact .inr (.inr (.inr (.inl ⟨_, he, hr, hp, rfl⟩)))
          · exact .inr (.inr (.inr (.inr (.inr (.inl ⟨_, he, hr, hp, ho, rfl⟩)))))
          · exact .inr (.inr (.inr (.inr (.inl ⟨_, i, he, hr, hp, hd, rfl⟩))))
        · simp only [hostWrite] at h
          split at h
          · cases h
            exact .inr (.inr (.inl ⟨a, bs, rfl, hr, rfl⟩))
          · cases h
  | turn x =>
    refine .inr (.inr (.inr (.inr (.inr (.inr ?_)))))
    simp only [applyInput] at h
    split at h
    · rename_i hr
      cases h
      exact .inl ⟨x, rfl, .inl hr, rfl⟩
    · rename_i hr
      have hr : s.rst = false := by simpa using hr
      rcases sequencerTurn_cases x s with ⟨hp, hx⟩ | ⟨hp, _, hx⟩ | ⟨i, hp, _, hi, hx⟩ <;> rw [hx] at h
      · cases h
        exact .inl ⟨x, rfl, .inr hp, rfl⟩
      · cases h
      · exact .inr (.inl ⟨x, i, rfl, hr, hp, hi, h⟩)
  | device bs =>
    cases h
    exact .inr (.inr (.inr (.inr (.inr (.inr (.inr (.inr (.inl ⟨bs, rfl, rfl⟩))))))))
  | drain n =>
    cases h
    exact .inr (.inr (.inr (.inr (.inr (.inr (.inr (.inr (.inr (.inl ⟨n, rfl, rfl⟩)))))))))
  | resetOn n =>
    cases h
    exact .inr (.inr (.inr (.inr (.inr (.inr (.inr (.inr (.inr (.inr (.inl ⟨n, rfl, rfl⟩))))))))))
  | resetOff =>
    cases h
    exact .inr (.inr (.inr (.inr (.inr (.inr (.inr (.inr (.inr (.inr (.inr ⟨rfl, rfl⟩))))))))))

/-- Everything one step can do: the next event of the schedule, or a turn without an answer when there is none. -/
theorem step_next {s t : State} (h : step s = .next t) :
    ∃ e u, applyInput e u = .next t ∧
      ((s.inputs = [] ∧ e = .turn none ∧ u = s) ∨
        (∃ rest, s.inputs = e :: rest ∧ u = s.withInputs rest)) := by
  unfold step takeInput at h
  cases hi : s.inputs with
  | nil => exact ⟨_, _, by rw [hi] at h; exact h, .inl ⟨rfl, rfl, rfl⟩⟩
  | cons e rest => exact ⟨_, _, by rw [hi] at h; exact h, .inr ⟨rest, rfl, rfl⟩⟩

/-- A command write out of reset issues its descriptor (R54). -/
theorem step_commandWrite {s : State} {d : Descriptor} {rest : List Input} (hr : s.rst = false)
    (hi : s.inputs = commandWrite d :: rest) :
    step s = issueCommand (littleEndian d) (s.withInputs rest) := by
  simp [step, takeInput, hi, applyInput, commandWrite, hostAccess, hr, isCommandWrite, littleEndian]

/-- A turn out of reset, with the operation in flight known by its code. -/
theorem step_turn {s : State} {x : Option Answer} {rest : List Input} {i : Instr} (hr : s.rst = false)
    (hp : s.phase ≠ .idle) (hi : s.inputs = .turn x :: rest) (hf : s.inFlight = .ok i) :
    step s = exec i ((s.withInputs rest).offer x) := by
  have hf' : (s.withInputs rest).inFlight = .ok i := hf
  have hr' : (s.withInputs rest).rst = false := hr
  simp only [step, takeInput, hi, applyInput, hr']
  unfold sequencerTurn
  rw [hf']
  cases h : s.phase <;> simp_all

/-- One step takes the next event off the schedule, or gives the sequencer a turn without an answer. -/
theorem step_eq (s : State) :
    (s.inputs = [] ∧ step s = applyInput (.turn none) s) ∨
    (∃ e rest, s.inputs = e :: rest ∧ step s = applyInput e (s.withInputs rest)) := by
  unfold step takeInput
  cases h : s.inputs with
  | nil => exact .inl ⟨rfl, rfl⟩
  | cons e rest => exact .inr ⟨e, rest, rfl, rfl⟩

theorem step_cons {s : State} {e : Input} {rest : List Input} (h : s.inputs = e :: rest) :
    step s = applyInput e (s.withInputs rest) := by
  simp [step, takeInput, h]

/-- The invariant speaks of the block alone: the environment and the read port may be anything. -/
theorem BlockInv.of_env {s t : State} (h : BlockInv s)
    (ht : t = { s with
      answer := t.answer, txStream := t.txStream, rxStream := t.rxStream, inputs := t.inputs
      rdata := t.rdata, freeReads := t.freeReads }) : BlockInv t := by
  rw [ht]
  exact { h with }

/-- A run goes on from the state its first step answers. -/
theorem run_succ {s t : State} (n : Nat) (h : step s = .next t) :
    Sys2Proof.core.run (n + 1) s = Sys2Proof.core.run n t := by
  have h' : Sys2Proof.core.step s = .next t := h
  simp only [Host.Core.run, h']

theorem run_zero (s : State) : Sys2Proof.core.run 0 s = .next s := rfl

end Sys2Proof.Machine
end

