-- ==== Sys2Proof/Tests/Slice0.lean ====
section
/-! SUPPORT. The model's own tests, in two parts. The first holds decoding, well-formedness and a few vectors of
spec/95_test_vectors.md (a theorem's docstring names its vector) against the model. The second shows, for every
statement of Obligations.lean that has hypotheses, a concrete case that meets them all, clause by clause. -/

namespace Sys2Proof.Tests

open Sys2Proof Sys2Proof.Machine

/-! ### Decoding: words written out from R78 and R80, and the examples of spec/opcode_table.json -/

/-- `0001 000000000000 0000000000000010`. -/
theorem test_decode_read : decodeTableWord 32 0x10000002 = some (.read 0 2) := by decide
/-- `0010 000000000001 0000000000000000`. -/
theorem test_decode_write : decodeTableWord 32 0x20010000 = some (.write 1 0) := by decide
/-- `0010 000100101100 0000000100000000` (V-W6): every field bit counts, legal or not. -/
theorem test_decode_write_illegal : decodeTableWord 32 0x212C0100 = some (.write 300 0x100) := by decide
/-- `0011 000000000000 0000000000000000`. -/
theorem test_decode_getPower : decodeTableWord 32 0x30000000 = some (.getPower 0 0) := by decide
/-- `0100 000000000000 0000000000000001`. -/
theorem test_decode_setPower : decodeTableWord 32 0x40000001 = some (.setPower 0 1) := by decide
/-- `0101 000000000000 0000000000000100`. -/
theorem test_decode_setPicture : decodeTableWord 32 0x50000004 = some (.setPicture 0 4) := by decide
/-- `0110 000000000000 0000000000000000`. -/
theorem test_decode_getInput : decodeTableWord 32 0x60000000 = some (.getInput 0 0) := by decide
/-- `0111 000000000000 0000000000000111`. -/
theorem test_decode_setInput : decodeTableWord 32 0x70000007 = some (.setInput 0 7) := by decide
/-- V-H3: the bytes of `30000000` in host address order are `00 00 00 30` (R54). -/
theorem test_encode_bytes : encode (.getPower 0 0) = [0x00, 0x00, 0x00, 0x30] := by decide
/-- R81: `OP = 0`, `OP = 8` and `OP = F` are refused by name. -/
theorem test_decode_reserved :
    decode [0x00, 0x00, 0x00, 0x00] = .error (.reservedOp 0) ∧
    decode [0x00, 0x00, 0x00, 0x80] = .error (.reservedOp 8) ∧
    decode [0xFF, 0xFF, 0xFF, 0xFF] = .error (.reservedOp 15) := by decide
/-- R54: a descriptor is four bytes. -/
theorem test_decode_length :
    decode [0x00, 0x00, 0x30] = .error (.notFourBytes 3) ∧
    decode [0, 0, 0, 0x30, 0] = .error (.notFourBytes 5) := by decide

/-! ### Well-formedness: one ill-formed term for each test of R79, beside the last legal value -/

theorem test_wf_read_len : (Instr.read 1 2).wellFormed = false := by decide
theorem test_wf_read_func :
    (Instr.read 0 256).wellFormed = false ∧ (Instr.read 0 255).wellFormed = true := by decide
theorem test_wf_write_func :
    (Instr.write 1 256).wellFormed = false ∧ (Instr.write 1 255).wellFormed = true := by decide
theorem test_wf_write_len :
    (Instr.write 255 16).wellFormed = false ∧ (Instr.write 254 16).wellFormed = true := by decide
theorem test_wf_getPower :
    (Instr.getPower 1 0).wellFormed = false ∧ (Instr.getPower 0 1).wellFormed = false ∧
    (Instr.getPower 0 0).wellFormed = true := by decide
theorem test_wf_setPower :
    (Instr.setPower 1 0).wellFormed = false ∧ (Instr.setPower 0 2).wellFormed = false ∧
    (Instr.setPower 0 1).wellFormed = true := by decide
theorem test_wf_setPicture :
    (Instr.setPicture 1 0).wellFormed = false ∧ (Instr.setPicture 0 8).wellFormed = false ∧
    (Instr.setPicture 0 7).wellFormed = true := by decide
theorem test_wf_getInput :
    (Instr.getInput 1 0).wellFormed = false ∧ (Instr.getInput 0 5).wellFormed = false ∧
    (Instr.getInput 0 0).wellFormed = true := by decide
theorem test_wf_setInput :
    (Instr.setInput 1 0).wellFormed = false ∧ (Instr.setInput 0 13).wellFormed = false ∧
    (Instr.setInput 0 12).wellFormed = true := by decide

/-! ### The Frame Codec -/

/-- V-K2, V-K3, V-K6, V-K8. -/
theorem test_checksum :
    checksum [0xFF, 0xFF] = 0xFE ∧ checksum [0x80, 0x80] = 0 ∧
    checksum [0x83, 0x00, 0x00, 0xFF, 0xFF] = 0x81 ∧ checksum [0x70, 0xFF] = 0x6F := by decide
/-- V-K4: 255 bytes of `FF`. -/
theorem test_checksum_long : checksum (List.replicate 255 0xFF) = 0x01 := by
  simp only [checksum, List.map_replicate, List.sum_replicate]
  decide
/-- V-S7, V-B5 to V-B7. -/
theorem test_buildRead :
    buildRead 0x02 = .ok [0x83, 0x00, 0x02, 0xFF, 0xFF, 0x83] ∧
    buildRead 0x7F = .ok [0x83, 0x00, 0x7F, 0xFF, 0xFF, 0x00] ∧
    buildRead 0xFF = .ok [0x83, 0x00, 0xFF, 0xFF, 0xFF, 0x80] ∧
    buildRead 0x100 = .error ⟨.encRange, 0⟩ := by decide
/-- V-B12 to V-B14, V-B19. -/
theorem test_buildWrite :
    buildWrite 0x05 [] = .ok [0x8C, 0x00, 0x05, 0x01, 0x92] ∧
    buildWrite 0x02 [0x04, 0x02] = .ok [0x8C, 0x00, 0x02, 0x03, 0x04, 0x02, 0x97] ∧
    buildWrite 0xFF [0xFF, 0xFF, 0xFF] = .ok [0x8C, 0x00, 0xFF, 0x04, 0xFF, 0xFF, 0xFF, 0x8C] ∧
    buildWrite 0x100 [0x00] = .error ⟨.encRange, 0⟩ := by decide
/-- V-A1, V-A5, V-A8, V-A10, V-A11, V-A14. -/
theorem test_parseAck :
    parseAck [0x70, 0x00, 0x70] = .ok () ∧
    parseAck [0x70, 0x04, 0x74] = .error ⟨.devParse, 0x04⟩ ∧
    parseAck [0x70, 0xFF, 0x6F] = .error ⟨.devUnrecognized, 0xFF⟩ ∧
    parseAck [0x70, 0x01, 0x00] = .error ⟨.checksum, 0x00⟩ ∧
    parseAck [0x60, 0x00, 0x60] = .error ⟨.frameHeader, 0x60⟩ ∧
    parseAck [0x71] = .error ⟨.frameLength, 0x01⟩ := by decide
/-- V-R10, V-R12, V-R14: header before answer, no checksum looked at, length first. -/
theorem test_parseReadHdr :
    parseReadHdr [0x71, 0x01, 0x02] = .error ⟨.frameHeader, 0x71⟩ ∧
    parseReadHdr [0x70, 0x05, 0x75] = .error ⟨.devUnrecognized, 0x05⟩ ∧
    parseReadHdr [0x70, 0x00] = .error ⟨.frameLength, 0x02⟩ := by decide
/-- V-R1, V-R2, V-R6, V-R7, V-R19. -/
theorem test_parseReadBody :
    parseReadBody [0x70, 0x00, 0x03] [0x04, 0x02, 0x79] = .ok [0x04, 0x02] ∧
    parseReadBody [0x70, 0x00, 0x01] [0x71] = .ok [] ∧
    parseReadBody [0x70, 0x00, 0x03] [0xAB, 0xCD, 0xEA] = .error ⟨.checksum, 0xEA⟩ ∧
    parseReadBody [0x70, 0x00, 0x03] [0xAB] = .error ⟨.frameLength, 0x01⟩ ∧
    parseReadBody [0x70, 0x00, 0x02] [0x71, 0x00] = .error ⟨.checksum, 0x00⟩ := by decide

/-! ### The command layer, with the default configuration of R8 (vectors marked `Cfg`) -/

/-- V-C1, V-C7. -/
theorem test_getPower_request :
    requestGetPower .default 0 0 = .ok [0x83, 0x00, 0x00, 0xFF, 0xFF, 0x81] ∧
    requestGetPower .default 0 1 = .error ⟨.encIllegalArg, 0⟩ := by decide
/-- V-C9, V-C11. -/
theorem test_setPower_request :
    requestSetPower .default 0 1 = .ok [0x8C, 0x00, 0x00, 0x02, 0x01, 0x8F] ∧
    requestSetPower .default 0 2 = .error ⟨.encIllegalArg, 0⟩ := by decide
/-- V-P4, V-P8. -/
theorem test_setPicture_request :
    requestSetPicture .default 0 4 = .ok [0x8C, 0x00, 0x20, 0x03, 0x01, 0x06, 0xB6] ∧
    requestSetPicture .default 0 8 = .error ⟨.encIllegalArg, 0⟩ := by decide
/-- V-I7, V-I12, V-I13. -/
theorem test_setInput_request :
    requestSetInput .default 0 7 = .ok [0x8C, 0x00, 0x02, 0x03, 0x04, 0x02, 0x97] ∧
    requestSetInput .default 0 12 = .ok [0x8C, 0x00, 0x02, 0x03, 0x07, 0x01, 0x99] ∧
    requestSetInput .default 0 13 = .error ⟨.encIllegalArg, 0⟩ := by decide
/-- V-G1 to V-G4, V-I12. -/
theorem test_getInput_decode :
    inputOf .default [0xF4, 0xA2] = .ok (0x07, 0x42) ∧
    inputOf .default [0x04, 0x09] = .error ⟨.decInputCode, 0x49⟩ ∧
    inputOf .default [0x04] = .error ⟨.decPayloadLen, 0x01⟩ ∧
    inputOf .default [0x07, 0x01] = .ok (0x0C, 0x71) := by decide

/-! ### Steps -/

/-- A block out of reset in a given phase of the operation of a given descriptor, with an answer of the transport on
offer, bytes waiting and a latched header. -/
def busy (phase : Phase) (d : Descriptor) (answer : Option Answer) (rx hdr : List Byte) : State :=
  { State.reset with
    cmd := d, phase := phase, opl := opField d, answer := answer, rxStream := rx
    hdr := Memory.writeBytes [] 0 hdr }

/-- A block in phase TX with a frame ready. -/
def sending (d : Descriptor) (answer : Option Answer) (frame : List Byte) : State :=
  { busy .tx d answer [] [] with
    txlen := BitVec.ofNat 9 frame.length, txbuf := Memory.writeBytes [] 0 frame }

/-- The idle block with events scheduled. -/
def idle (inputs : List Input) : State := State.reset.withInputs inputs

/-- The state a step leads to, read through `f`. -/
def after {α : Type} (o : Host.Outcome State Fault Refusal) (f : State → α) : Option α :=
  match o with
  | .next t => some (f t)
  | .fault _ => none
  | .refused _ => none

/-- The fetch word of READ `0x02` runs it (V-X1): the next step accepts it and its frame is ready. -/
theorem test_step_read :
    after (step (State.reset.withFetchWord 32 0x10000002)) (fun t => (t.cmd, t.phase, t.txFrame)) =
      some (0x10000002, .tx, [0x83, 0x00, 0x02, 0xFF, 0xFF, 0x83]) := by decide
/-- The fetch word of SET_INPUT 7 runs it, whatever the configuration. -/
theorem test_step_setInput :
    after (step (State.reset.withFetchWord 32 0x70000007)) (fun t => (t.cmd, t.phase, t.flags)) =
      some (0x70000007, .tx, 0x01) := by decide
/-- V-Z4: a reserved descriptor completes at once. -/
theorem test_step_reserved :
    after (step (State.reset.withFetchWord 32 0xFFFFFFFF)) (fun t => (t.cmd, t.status, t.flags)) =
      some (0xFFFFFFFF, 0x13, 0x02) := by decide
/-- V-X1: the RXBODY step of READ. -/
theorem test_read_body :
    after (exec (.read 0 2) (busy .rxbody 0x10000002 (some (.ok 3)) [0x04, 0x02, 0x79] [0x70, 0x00, 0x03]))
      (fun t => (t.status, t.outcome.payload, t.flags)) = some (0x00, [0x04, 0x02], 0x02) := by decide
/-- V-W3: the accept step of WRITE takes the payload from PBUF. -/
theorem test_write_accept :
    after (exec (.write 2 2) (State.reset.store .pbuf 0 [0x04, 0x02, 0x99])) State.txFrame =
      some [0x8C, 0x00, 0x02, 0x03, 0x04, 0x02, 0x97] := by decide
/-- V-W10: the acknowledgement is three bytes; what follows stays. -/
theorem test_write_ack :
    after (exec (.write 1 0) (busy .rxhdr 0x20010000 (some (.ok 3)) [0x70, 0x00, 0x70, 0x99] []))
      (fun t => (t.status, t.flags, t.rxStream)) = some (0x00, 0x02, [0x99]) := by decide
/-- V-C3. -/
theorem test_getPower_body :
    after (exec (.getPower 0 0) (busy .rxbody 0x30000000 (some (.ok 2)) [0x02, 0x74] [0x70, 0x00, 0x02]))
      (fun t => (t.status, t.info, t.outcome.payload)) = some (0x61, 0x02, [0x02]) := by decide
/-- V-C12. -/
theorem test_setPower_ack :
    after (exec (.setPower 0 1) (busy .rxhdr 0x40000001 (some (.ok 3)) [0x70, 0x03, 0x73] []))
      (fun t => (t.status, t.info, t.phase)) = some (0x53, 0x03, .idle) := by decide
/-- R121: SET_PICTURE's TX step on a failing transport that let two bytes out. -/
theorem test_setPicture_tx :
    after (exec (.setPicture 0 0) (sending 0x50000000 (some (.fail 2)) [0x8C, 0x00, 0x20, 0x03, 0x01, 0x00, 0xB0]))
      (fun t => (t.status, t.txStream, t.flags)) = some (0x21, [0x8C, 0x00], 0x02) := by decide
/-- V-G5: a device error ends GET_INPUT at the header and leaves the rest of the response. -/
theorem test_getInput_header :
    after (exec (.getInput 0 0) (busy .rxhdr 0x60000000 (some (.ok 3)) [0x70, 0x01, 0x02, 0x05, 0x78] []))
      (fun t => (t.status, t.info, t.rxStream)) = some (0x51, 0x01, [0x05, 0x78]) := by decide
/-- V-H2: an 8-bit write at `0x203` starts nothing. -/
theorem test_host_narrow_command :
    after (step (idle [.host (.write 0x203 [0x20])])) (fun t => (t.cmd, t.flags)) = some (0, 0) := by decide
/-- V-H9: PBUF is 256 bytes. -/
theorem test_host_pbuf :
    after (step (idle [.host (.write 0x0FF [0x5A])])) (fun t => (hostReadByte 0x0FF t).1) = some 0x5A := by
  decide
/-- V-H6, V-H7: only bits 1 and 2 of a FLAGS write clear. -/
theorem test_host_flags :
    after (step ((idle [.host (.write 0x208 [0xF8])]).enterError ⟨.encIllegalOp, 0⟩)) State.flags = some 0x02 ∧
    after (step ((idle [.host (.write 0x208 [0x02])]).enterError ⟨.encIllegalOp, 0⟩)) State.flags = some 0 := by
  decide

/-! ### Witnesses: cases that meet the hypotheses of the statements

Each theorem is named after its statement and gives the hypotheses of every clause at concrete values, at the ends of the
ranges where the statement has ranges. -/

theorem wit_EncodeInvertsDecode : decode [0x02, 0x00, 0x00, 0x10] = .ok (.read 0 2) := by decide

theorem wit_OperationSelectedByOpAlone :
    decodeWord 0x1FFFFFFF = .ok (.read 0xFFF 0xFFFF) ∧ decodeWord 0x70000000 = .ok (.setInput 0 0) ∧
    1 ≤ (opField 0x1FFFFFFF).toNat ∧ (opField 0x70000000).toNat ≤ 7 := by decide

theorem wit_StepRunsDecodedOperation_command :
    let s := idle [.host (.write 0x200 [0x07, 0x00, 0x00, 0x70])]
    s.rst = false ∧ s.phase = .idle ∧ s.inputs = [.host (.write 0x200 [0x07, 0x00, 0x00, 0x70])] ∧
      decode [0x07, 0x00, 0x00, 0x70] = .ok (.setInput 0 7) := by decide

theorem wit_StepRunsDecodedOperation_turn :
    let s := (busy .rxhdr 0x60000000 none [] []).withInputs [.turn (some (.ok 3))]
    s.rst = false ∧ s.phase ≠ .idle ∧ s.inputs = [.turn (some (.ok 3))] ∧
      s.inFlight = .ok (.getInput 0 0) := by decide

theorem wit_ReservedDescriptorCompletesAtOnce :
    (idle [commandWrite 0x80000000]).rst = false ∧ (idle [commandWrite 0x80000000]).phase = .idle ∧
    (opField 0x0FFFFFFF).toNat = 0 ∧ 8 ≤ (opField 0x80000000).toNat ∧ 8 ≤ (opField 0xFFFFFFFF).toNat := by
  decide

theorem wit_CommandWhileBusyIsDropped :
    ∀ ph ∈ [Phase.tx, .rxhdr, .rxbody],
      let s := (busy ph 0x10000002 none [] []).withInputs [commandWrite 0x30000000]
      s.rst = false ∧ s.phase ≠ .idle ∧ s.inputs = [commandWrite 0x30000000] := by decide

theorem wit_ReadLaunchesReadRequest :
    (0 : BitVec 16).toNat ≤ 255 ∧ (255 : BitVec 16).toNat ≤ 255 ∧ State.reset.phase = .idle := by decide

theorem wit_WriteLaunchesPbufPayload :
    (0 : BitVec 12).toNat ≤ 254 ∧ (254 : BitVec 12).toNat ≤ 254 ∧ (255 : BitVec 16).toNat ≤ 255 ∧
    State.reset.phase = .idle := by decide

theorem wit_GetPowerLaunchesReadRequest : State.reset.phase = .idle := by decide

theorem wit_SetPowerLaunchesWriteRequest :
    (0 : BitVec 16).toNat ≤ 1 ∧ (1 : BitVec 16).toNat ≤ 1 ∧ State.reset.phase = .idle := by decide

theorem wit_SetPictureLaunchesDirectSelection :
    (0 : BitVec 16).toNat ≤ 7 ∧ (7 : BitVec 16).toNat ≤ 7 ∧ State.reset.phase = .idle := by decide

theorem wit_GetInputLaunchesReadRequest : State.reset.phase = .idle := by decide

theorem wit_SetInputLaunchesNibbles :
    (0 : BitVec 16).toNat ≤ 12 ∧ (12 : BitVec 16).toNat ≤ 12 ∧ State.reset.phase = .idle := by decide

theorem wit_IllegalFieldsRefusedAtAccept :
    State.reset.phase = .idle ∧ (1 : BitVec 12) ≠ 0 ∧ (4095 : BitVec 12) ≠ 0 ∧ (1 : BitVec 16) ≠ 0 ∧
    1 < (2 : BitVec 16).toNat ∧ 7 < (8 : BitVec 16).toNat ∧ 12 < (13 : BitVec 16).toNat := by decide

theorem wit_RangeTestedBeforeSize :
    State.reset.phase = .idle ∧ 255 < (256 : BitVec 16).toNat ∧ 255 < (0xFFFF : BitVec 16).toNat ∧
    (255 : BitVec 16).toNat ≤ 255 ∧ 254 < (255 : BitVec 12).toNat := by decide

theorem wit_TxStepSendsWholeFrame :
    (sending 0x10000002 (some (.ok 6)) [0x83, 0x00, 0x02, 0xFF, 0xFF, 0x83]).phase = .tx ∧
    (sending 0x10000002 (some (.ok 6)) []).answer = some (.ok 6) ∧
    (sending 0x10000002 (some (.fail 0)) []).answer = some (.fail 0) ∧
    (sending 0x10000002 none []).answer = none := by decide

theorem wit_FailedReadEndsOperation :
    (busy .rxhdr 0x20010000 (some (.fail 0)) [] []).answer = some (.fail 0) ∧
    (busy .rxhdr 0x20010000 (some (.fail 0)) [] []).phase = .rxhdr ∧
    (busy .rxbody 0x10000002 (some (.fail 9)) [] [0x70, 0x00, 0x01]).answer = some (.fail 9) ∧
    (busy .rxbody 0x10000002 (some (.fail 9)) [] [0x70, 0x00, 0x01]).phase = .rxbody ∧
    isReadType (.read 0 2) = true ∧
    (busy .rxbody 0x10000002 (some (.fail 9)) [] [0x70, 0x00, 0x01]).byteAt .hdr 2 ≠ 0 := by decide

/-- The block as it is while a READ waits for its header meets the invariant. -/
theorem blockInv_waiting : BlockInv (busy .rxhdr 0x10000002 none [] []) where
  mem_wf := List.Pairwise.nil
  txbuf_wf := by decide
  hdr_wf := by decide
  mem_range := by decide
  txbuf_range := by decide
  hdr_range := by decide
  status_legal := by decide
  rlen_le := by decide
  result_le := by decide
  txlen_le := by decide
  busy_opl := by decide
  busy_clear := by decide
  tx_frame := fun h => by cases h
  body_readType := fun h => by cases h
  rbuf_written := by decide
  reset_held := fun h => by cases h

/-- The block as it is while the frame of READ `0x02` waits for the transport meets the invariant. -/
theorem blockInv_sending : BlockInv (sending 0x10000002 none [0x83, 0x00, 0x02, 0xFF, 0xFF, 0x83]) where
  mem_wf := List.Pairwise.nil
  txbuf_wf := by decide
  hdr_wf := by decide
  mem_range := by decide
  txbuf_range := by decide
  hdr_range := by decide
  status_legal := by decide
  rlen_le := by decide
  result_le := by decide
  txlen_le := by decide
  busy_opl := by decide
  busy_clear := by decide
  tx_frame := fun _ => ⟨by decide, [0x83, 0x00, 0x02, 0xFF, 0xFF], by decide⟩
  body_readType := fun h => by cases h
  rbuf_written := by decide
  reset_held := fun h => by cases h

/-- The block as it is while a READ waits for its segment meets the invariant. -/
theorem blockInv_body : BlockInv (busy .rxbody 0x10000002 none [] [0x70, 0x00, 0x01]) where
  mem_wf := List.Pairwise.nil
  txbuf_wf := by decide
  hdr_wf := by decide
  mem_range := by decide
  txbuf_range := by decide
  hdr_range := by decide
  status_legal := by decide
  rlen_le := by decide
  result_le := by decide
  txlen_le := by decide
  busy_opl := by decide
  busy_clear := by decide
  tx_frame := fun h => by cases h
  body_readType := by decide
  rbuf_written := by decide
  reset_held := fun h => by cases h

/-- The block under reset meets the invariant. -/
theorem blockInv_held : BlockInv (State.reset.assertReset 0) where
  mem_wf := List.Pairwise.nil
  txbuf_wf := by decide
  hdr_wf := by decide
  mem_range := by decide
  txbuf_range := by decide
  hdr_range := by decide
  status_legal := by decide
  rlen_le := by decide
  result_le := by decide
  txlen_le := by decide
  busy_opl := by decide
  busy_clear := by decide
  tx_frame := fun h => by cases h
  body_readType := fun h => by cases h
  rbuf_written := by decide
  reset_held := fun _ => rfl

theorem wit_NeverAnsweredNeverCompletes_tx :
    let s := (sending 0x10000002 none [0x83, 0x00, 0x02, 0xFF, 0xFF, 0x83]).withInputs
      (List.replicate 2 (.turn none))
    BlockInv s ∧ s.rst = false ∧ s.answer = none ∧ s.inputs = List.replicate 2 (.turn none) ∧
      s.phase = .tx :=
  ⟨blockInv_sending.of_env rfl, rfl, rfl, rfl, rfl⟩

theorem wit_NeverAnsweredNeverCompletes_rxhdr :
    let s := (busy .rxhdr 0x10000002 none [0x70] []).withInputs (List.replicate 2 (.turn none))
    BlockInv s ∧ s.rst = false ∧ s.answer = none ∧ s.inputs = List.replicate 2 (.turn none) ∧
      s.phase = .rxhdr :=
  ⟨blockInv_waiting.of_env rfl, rfl, rfl, rfl, rfl⟩

theorem wit_NeverAnsweredNeverCompletes_rxbody :
    let s := (busy .rxbody 0x10000002 none [] [0x70, 0x00, 0x01]).withInputs
      (List.replicate 2 (.turn none))
    BlockInv s ∧ s.rst = false ∧ s.answer = none ∧ s.inputs = List.replicate 2 (.turn none) ∧
      s.phase = .rxbody ∧ s.byteAt .hdr 2 ≠ 0 :=
  ⟨blockInv_body.of_env rfl, rfl, rfl, rfl, rfl, by decide⟩

theorem wit_AcknowledgementCompletesWrites :
    let s := busy .rxhdr 0x20010000 (some (.ok 3)) [0x70, 0x00, 0x70, 0x99] []
    (∀ i ∈ [Instr.write 1 0, .setPower 0 1, .setPicture 0 7, .setInput 0 12], isReadType i = false) ∧
      s.phase = .rxhdr ∧ s.answer = some (.ok 3) ∧ 3 ≤ 3 ∧
      s.rxStream = [0x70, 0x00, 0x70] ++ [0x99] := by decide

theorem wit_AcknowledgementErrorsInOrder :
    let s := fun rx => busy .rxhdr 0x20010000 (some (.ok 3)) rx []
    isReadType (.write 1 0) = false ∧
      (∀ rx ∈ [[], [0x71], [0x70, 0x00], [0x71, 0x01, 0x00], [0x70, 0x01, 0x00], [0x70, 0xFF, 0x6F]],
        (s rx).phase = .rxhdr ∧ (s rx).answer = some (.ok 3)) ∧
      ((s []).rxStream.take (min 3 3)).length < 3 ∧ ((s [0x70, 0x00]).rxStream.take (min 3 3)).length < 3 ∧
      (s [0x71, 0x01, 0x00]).rxStream.take (min 3 3) = [0x71, 0x01, 0x00] ∧ (0x71 : Byte) ≠ 0x70 ∧
      (s [0x70, 0x01, 0x00]).rxStream.take (min 3 3) = [0x70, 0x01, 0x00] ∧ (0x00 : Byte) ≠ 0x70 + 0x01 ∧
      (s [0x70, 0xFF, 0x6F]).rxStream.take (min 3 3) = [0x70, 0xFF, 0x6F] ∧
      (0x6F : Byte) = 0x70 + 0xFF ∧ (0xFF : Byte) ≠ 0 := by decide

theorem wit_AcceptedHeaderIsLatched :
    let s := busy .rxhdr 0x10000002 (some (.ok 3)) [0x70, 0x00, 0x00] []
    (∀ i ∈ [Instr.read 0 2, .getPower 0 0, .getInput 0 0], isReadType i = true) ∧
      s.phase = .rxhdr ∧ s.answer = some (.ok 3) ∧ 3 ≤ 3 ∧ s.rxStream = [0x70, 0x00, 0x00] ++ [] := by decide

theorem wit_ReadHeaderErrorsInOrder :
    let s := fun rx => busy .rxhdr 0x10000002 (some (.ok 3)) rx []
    isReadType (.read 0 2) = true ∧
      (∀ rx ∈ [[], [0x70, 0x00], [0x71, 0x01, 0x02], [0x70, 0xFF, 0x00]],
        (s rx).phase = .rxhdr ∧ (s rx).answer = some (.ok 3)) ∧
      ((s []).rxStream.take (min 3 3)).length < 3 ∧ ((s [0x70, 0x00]).rxStream.take (min 3 3)).length < 3 ∧
      (s [0x71, 0x01, 0x02]).rxStream.take (min 3 3) = [0x71, 0x01, 0x02] ∧ (0x71 : Byte) ≠ 0x70 ∧
      (s [0x70, 0xFF, 0x00]).rxStream.take (min 3 3) = [0x70, 0xFF, 0x00] ∧ (0xFF : Byte) ≠ 0 := by decide

/-- The block waiting for the segment of a payload whose header has been latched, with the segment and one byte more in
the RX stream. -/
def segment (d : Descriptor) (k : Nat) (p : List Byte) : State :=
  busy .rxbody d (some (.ok k)) (p ++ [checksum (responseHeader p ++ p)] ++ [0x99]) (responseHeader p)

/-- The hypotheses the statements about a valid segment share. -/
def SegmentWaits (s : State) (k : Nat) (p rest : List Byte) : Prop :=
  s.phase = .rxbody ∧ s.answer = some (.ok k) ∧ (s.byteAt .hdr 2).toNat = p.length + 1 ∧
    p.length + 1 ≤ k ∧ s.rxStream = p ++ [checksum (s.header ++ p)] ++ rest

theorem segment_waits (d : Descriptor) {k : Nat} {p : List Byte} (hp : p.length ≤ 254)
    (hk : p.length + 1 ≤ k) : SegmentWaits (segment d k p) k p [0x99] := by
  refine ⟨rfl, rfl, ?_, hk, rfl⟩
  rw [show (segment d k p).byteAt .hdr 2 = BitVec.ofNat 8 (p.length + 1) from rfl, BitVec.toNat_ofNat]
  omega

theorem length_longest : (List.replicate 254 (0xFF : Byte)).length = 254 := List.length_replicate

theorem wit_ReadCompletesWithPayload :
    SegmentWaits (segment 0x10000002 1 []) 1 [] [0x99] ∧
    SegmentWaits (segment 0x10000002 255 (List.replicate 254 0xFF)) 255 (List.replicate 254 0xFF) [0x99] :=
  ⟨segment_waits _ (by decide) (by decide),
    segment_waits _ (by rw [length_longest]) (by rw [length_longest])⟩

theorem wit_GetPowerCompletesWithState :
    ∀ b ∈ [(0 : Byte), 1],
      let s := segment 0x30000000 2 [b]
      s.phase = .rxbody ∧ s.answer = some (.ok 2) ∧ s.byteAt .hdr 2 = 2 ∧ 2 ≤ 2 ∧
        s.rxStream = [b, checksum (s.header ++ [b])] ++ [0x99] ∧ (b = 0 ∨ b = 1) := by decide

/-- The one code that every configuration shares is that of HDMI_2 (R8). -/
theorem wit_GetInputCompletesWithIndex :
    let s := segment 0x60000000 3 [0xF4, 0xA2]
    s.phase = .rxbody ∧ s.answer = some (.ok 3) ∧ s.byteAt .hdr 2 = 3 ∧ 3 ≤ 3 ∧
      s.rxStream = [0xF4, 0xA2, checksum (s.header ++ [0xF4, 0xA2])] ++ [0x99] ∧
      InputMode.all[7]? = some .hdmi2 ∧
      (Config.cfg.inpCode .hdmi2).toNat =
        (0xF4 : Byte).toNat % 16 * 16 + (0xA2 : Byte).toNat % 16 :=
  ⟨rfl, rfl, rfl, by decide, by decide, rfl, by rw [config_legal.2.2]; decide⟩

theorem wit_GetPowerDecodeErrors :
    SegmentWaits (segment 0x30000000 1 []) 1 [] [0x99] ∧ ([] : List Byte).length ≠ 1 ∧
    SegmentWaits (segment 0x30000000 3 [0x01, 0x00]) 3 [0x01, 0x00] [0x99] ∧
    ([0x01, 0x00] : List Byte).length ≠ 1 ∧
    SegmentWaits (segment 0x30000000 2 [0x02]) 2 [0x02] [0x99] ∧ (0x02 : Byte) ≠ 0 ∧ (0x02 : Byte) ≠ 1 :=
  ⟨segment_waits _ (by decide) (by decide), by decide, segment_waits _ (by decide) (by decide), by decide,
    segment_waits _ (by decide) (by decide), by decide, by decide⟩

theorem wit_GetInputDecodeErrors_length :
    SegmentWaits (segment 0x60000000 2 [0x04]) 2 [0x04] [0x99] ∧ ([0x04] : List Byte).length ≠ 2 ∧
    SegmentWaits (segment 0x60000000 4 [0, 0, 0]) 4 [0, 0, 0] [0x99] ∧ ([0, 0, 0] : List Byte).length ≠ 2 :=
  ⟨segment_waits _ (by decide) (by decide), by decide, segment_waits _ (by decide) (by decide), by decide⟩

/-- Thirteen modes cannot use up the codes `00` to `0D`, so every configuration leaves one of them unused. -/
theorem unused_code (c : Cfg) : ∃ b : Byte, b.toNat < 16 ∧ ∀ m, c.inpCode m ≠ b := by
  have h14 : ¬ ((List.range 14).map (BitVec.ofNat 8)) ⊆ InputMode.all.map c.inpCode := by
    intro hs
    have hn : ((List.range 14).map (BitVec.ofNat 8)).Nodup := by decide
    have := (List.subperm_of_subset hn hs).length_le
    simp [InputMode.all] at this
  simp only [List.subset_def, not_forall] at h14
  obtain ⟨b, hb, hn⟩ := h14
  refine ⟨b, ?_, fun m hm => hn (List.mem_map.mpr ⟨m, mem_inputModes m, hm⟩)⟩
  obtain ⟨i, hi, rfl⟩ := List.mem_map.mp hb
  have := List.mem_range.mp hi
  rw [BitVec.toNat_ofNat]
  omega

theorem wit_GetInputDecodeErrors_code :
    ∃ c : Byte, SegmentWaits (segment 0x60000000 3 [0x00, c]) 3 [0x00, c] [0x99] ∧
      c.toNat = (0x00 : Byte).toNat % 16 * 16 + c.toNat % 16 ∧ ∀ m, Config.cfg.inpCode m ≠ c := by
  obtain ⟨c, hc, hm⟩ := unused_code Config.cfg
  refine ⟨c, segment_waits _ (by simp) (by simp), ?_, hm⟩
  rw [show (0x00 : Byte).toNat = 0 from rfl]
  omega

theorem wit_SegmentErrorsInOrder_zero :
    isReadType (.read 0 2) = true ∧
    (busy .rxbody 0x10000002 none [] [0x70, 0x00, 0x00]).phase = .rxbody ∧
    (busy .rxbody 0x10000002 none [] [0x70, 0x00, 0x00]).byteAt .hdr 2 = 0 := by decide

theorem wit_SegmentErrorsInOrder_short :
    let s := busy .rxbody 0x10000002 (some (.ok 255)) [0xAB] [0x70, 0x00, 0x03]
    s.phase = .rxbody ∧ 3 = (s.byteAt .hdr 2).toNat ∧ 3 ≠ 0 ∧ s.answer = some (.ok 255) ∧
      [0xAB] = s.rxStream.take (min 3 255) ∧ ([0xAB] : List Byte).length < 3 := by decide

theorem wit_SegmentErrorsInOrder_checksum :
    let s := busy .rxbody 0x10000002 (some (.ok 3)) [0xAB, 0xCD, 0xEA] [0x70, 0x00, 0x03]
    s.phase = .rxbody ∧ 3 = (s.byteAt .hdr 2).toNat ∧ 3 ≠ 0 ∧ s.answer = some (.ok 3) ∧
      [0xAB, 0xCD, 0xEA] = s.rxStream.take (min 3 3) ∧
      ([0xAB, 0xCD, 0xEA] : List Byte) = [0xAB, 0xCD] ++ [0xEA] ∧
      checksum (s.header ++ [0xAB, 0xCD]) ≠ 0xEA := by decide

theorem wit_AnswerTable : 0x05 ≤ (0x05 : Byte).toNat ∧ 0x05 ≤ (0xFF : Byte).toNat := by decide

theorem wit_BuildReadFrame : (255 : BitVec 16).toNat ≤ 255 ∧ 255 < (256 : BitVec 16).toNat := by decide

theorem wit_BuildWriteFrame :
    255 < (256 : BitVec 16).toNat ∧ (255 : BitVec 16).toNat ≤ 255 ∧
    254 < (List.replicate 255 (0 : Byte)).length ∧ (List.replicate 254 (0xFF : Byte)).length ≤ 254 :=
  ⟨by decide, by decide, by rw [List.length_replicate]; decide, by rw [length_longest]⟩

theorem wit_ParseRoundTrip :
    (List.replicate 254 (0xFF : Byte)).length ≤ 254 ∧ (255 : BitVec 16).toNat ≤ 255 ∧
    buildRead 255 = .ok [0x83, 0x00, 0xFF, 0xFF, 0xFF, 0x80] ∧
    buildWrite 5 [] = .ok [0x8C, 0x00, 0x05, 0x01, 0x92] := by
  exact ⟨by rw [length_longest], by decide, by decide, by decide⟩

theorem wit_ChangedAcknowledgementRefused :
    (0x71 : Byte) ≠ 0x70 ∧ (0x00 : Byte) ≠ 0x01 ∧ (0x70 : Byte) ≠ 0x70 + 0x01 := by decide

theorem wit_ChangedReadResponseRefused :
    let p : List Byte := [0x71, 0x00]
    p.length ≤ 254 ∧ (0x71 : Byte) ≠ 0x70 ∧ (0x01 : Byte) ≠ 0 ∧ 1 < p.length ∧ p[1]? ≠ some 0x01 ∧
      (0x00 : Byte) ≠ checksum (responseHeader p ++ p) ∧ p.length + 1 < (0x04 : Byte).toNat ∧
      (responseSegment p).take (0x02 : Byte).toNat = [0x71] ++ [0x00] ∧ 1 ≤ (0x02 : Byte).toNat ∧
      (0x02 : Byte).toNat < p.length + 1 := by decide

theorem wit_InputDecodeInvertsEncode :
    Cfg.default.Legal ∧ Config.cfg.Legal ∧ InputMode.all[0]? = some .scart1 ∧
    InputMode.all[12]? = some .sharedInput :=
  ⟨defaultCfg_legal, config_legal, rfl, rfl⟩

/-- A block whose RBUF is full, with a one-byte read scheduled. -/
def reading (a : BitVec 10) : State :=
  { (idle [.host (.read a 1)]) with cmd := 0x10000002, rlen := 254, done := true }

theorem wit_HostReadsAddressMap :
    (∀ a, (reading a).inputs = [.host (.read a 1)]) ∧
    (0x0FF : BitVec 10).toNat < 0x100 ∧ 0x100 ≤ (0x100 : BitVec 10).toNat ∧
    (0x1FD : BitVec 10).toNat < 0x1FE ∧ (0x1FD : BitVec 10).toNat - 0x100 < (reading 0x1FD).rlen.toNat ∧
    (0x1FE : BitVec 10).toNat = 0x1FE ∧ (0x1FF : BitVec 10).toNat = 0x1FF ∧ 0x209 ≤ (0x209 : BitVec 10).toNat ∧
    0x200 ≤ (0x200 : BitVec 10).toNat ∧ (0x203 : BitVec 10).toNat ≤ 0x203 ∧
    (0x10 : Byte) = ((reading 0x203).cmd >>> (8 * ((0x203 : BitVec 10).toNat - 0x200))).setWidth 8 ∧
    (0x204 : BitVec 10).toNat = 0x204 ∧ (0x208 : BitVec 10).toNat = 0x208 ∧
    (0x02 : Byte).toNat = (if (reading 0x208).phase = .idle then 0 else 1) +
      (if (reading 0x208).done then 2 else 0) + (if (reading 0x208).cmdOvr then 4 else 0) :=
  ⟨fun _ => rfl, by decide⟩

theorem wit_CommandReadsLittleEndian :
    (idle [.host (.read 0x200 4)]).inputs = [.host (.read 0x200 4)] ∧
    0x200 ≤ (0x200 : BitVec 10).toNat ∧ (0x200 : BitVec 10).toNat + 4 ≤ 0x204 ∧
    0x200 ≤ (0x203 : BitVec 10).toNat ∧ (0x203 : BitVec 10).toNat + 1 ≤ 0x204 := by decide

theorem wit_HostReadsHaveNoSideEffect :
    (reading 0x1FD).inputs = [.host (.read 0x1FD 1)] ∧ ∃ t : State, step (reading 0x1FD) = .next t :=
  ⟨rfl, _, rfl⟩

/-- A block waiting for an acknowledgement, with a one-byte write scheduled. -/
def writing (a : BitVec 10) : State := (busy .rxhdr 0x20010000 none [] []).withInputs [.host (.write a [0x5A])]

theorem wit_PbufWriteStoresByte :
    (∀ a, (writing a).rst = false ∧ (writing a).inputs = [.host (.write a [0x5A])]) ∧
    (0x000 : BitVec 10).toNat < 0x100 ∧ (0x0FF : BitVec 10).toNat < 0x100 :=
  ⟨fun _ => ⟨rfl, rfl⟩, by decide⟩

theorem wit_FlagsWriteOneToClear :
    (idle [.host (.write 0x208 [0x06])]).rst = false ∧
    (idle [.host (.write 0x208 [0x06])]).inputs = [.host (.write 0x208 [0x06])] := by decide

theorem wit_OtherWritesIgnored :
    (∀ a, (writing a).rst = false ∧ (writing a).inputs = [.host (.write a [0x5A])]) ∧
    ([0x5A] : List Byte).length = 1 ∧
    (∀ a ∈ [(0x100 : BitVec 10), 0x1FD, 0x1FF, 0x207, 0x209, 0x3FF], 0x100 ≤ a.toNat ∧ a.toNat ≠ 0x208) ∧
    ([1, 2, 3] : List Byte).length < 4 ∧ 0x200 ≤ (0x201 : BitVec 10).toNat ∧
    (0x201 : BitVec 10).toNat + ([1, 2, 3] : List Byte).length ≤ 0x204 :=
  ⟨fun _ => ⟨rfl, rfl⟩, by decide⟩

theorem wit_WideRegisterAccessRefused :
    (∀ a, (idle [.host (.read a 2)]).inputs = [.host (.read a 2)] ∧
      (idle [.host (.write a [0, 0])]).rst = false ∧
      (idle [.host (.write a [0, 0])]).inputs = [.host (.write a [0, 0])]) ∧
    ([0, 0] : List Byte).length = 2 ∧
    (∀ a ∈ [(0x203 : BitVec 10), 0x204, 0x208, 0x3FF], turnedAway a.toNat 2) :=
  ⟨fun _ => ⟨rfl, rfl, rfl⟩, by decide⟩

/-- The neighbours of the accesses that are turned away: wide ones that end below or start beyond the byte registers, one that
ends at `0x3FF`, and a single byte. -/
theorem test_turnedAway_neighbours :
    ∀ p ∈ [((0x202 : Nat), 2), (0x200, 4), (0x209, 2), (0x3FE, 2), (0x204, 1), (0x3FF, 1)],
      ¬ turnedAway p.1 p.2 ∧ accessOk p.1 p.2 = true := by decide

theorem wit_ResetAbandonsOperation :
    let s := (sending 0x10000002 none [0x83, 0x00, 0x02, 0xFF, 0xFF, 0x83]).withInputs [.resetOn 3]
    s.inputs = [.resetOn 3] ∧ s.phase = .tx := by decide

theorem wit_NothingMovesUnderReset :
    ((State.reset.assertReset 0).withInputs [.host (.write 0x000 [0x5A])]).rst = true ∧
    ((State.reset.assertReset 0).withInputs [.host (.write 0x000 [0x5A])]).inputs =
      [.host (.write 0x000 [0x5A])] ∧
    ((State.reset.assertReset 0).withInputs [.turn none]).inputs = [.turn none] ∧
    (State.reset.assertReset 0).inputs = [] ∧
    BlockInv ((State.reset.assertReset 0).withInputs [.host (.read 0x204 1)]) ∧
    0x1FE ≤ (0x1FE : BitVec 10).toNat ∧
    ((State.reset.assertReset 0).withInputs [.host (.read 0x204 1)]).inputs = [.host (.read 0x204 1)] :=
  ⟨rfl, rfl, rfl, rfl, blockInv_held.of_env rfl, by decide, rfl⟩

/-- The header of a READ arrives: a step in the middle of an operation. -/
def headerArrives : State :=
  (busy .rxhdr 0x10000002 none [0x70, 0x00, 0x03, 0x04, 0x02, 0x79] []).withInputs [.turn (some (.ok 3))]

/-- The acknowledgement of a WRITE arrives: a step that completes an operation. -/
def ackArrives : State :=
  (busy .rxhdr 0x20010000 none [0x70, 0x00, 0x70] []).withInputs [.turn (some (.ok 3))]

theorem wit_StepKeepsInvariant : BlockInv headerArrives ∧ ∃ t : State, step headerArrives = .next t :=
  ⟨blockInv_waiting.of_env rfl, _, rfl⟩

/-- A block waiting for the header of a READ, with a two-byte host read at the end of the address space scheduled. -/
def readsPastEnd : State := (busy .rxhdr 0x10000002 none [] []).withInputs [.host (.read 0x3FF 2)]

theorem wit_NoFaultUnderInvariant :
    BlockInv headerArrives ∧ BlockInv readsPastEnd ∧ step readsPastEnd = .refused (.wideAccess 0x3FF 2) :=
  ⟨blockInv_waiting.of_env rfl, blockInv_waiting.of_env rfl, rfl⟩

theorem wit_PhaseOnlyAdvances :
    ∃ t : State, step headerArrives = .next t ∧ headerArrives.phase = .rxhdr ∧ t.phase = .rxbody :=
  ⟨_, rfl, rfl, rfl⟩

/-- The idle block after a refused command whose `DONE` the host cleared (V-H6): `STATUS` stays `0x13`. -/
def refusedAndCleared : State := { State.reset with status := 0x13 }

/-- One step into each of the statement's cases: waiting, an accept, a refused accept, a completing turn, a reset. -/
theorem wit_ResultRegistersWrittenOnlyAtEnds :
    (∃ t : State, step refusedAndCleared = .next t ∧ t.status = 0x13) ∧
    (∃ t : State, step (refusedAndCleared.withInputs [commandWrite 0x10000002]) = .next t ∧ t.phase = .tx) ∧
    (∃ t : State, step (idle [commandWrite 0]) = .next t ∧ t.status = 0x13) ∧
    (∃ t : State, step ackArrives = .next t ∧ ackArrives.phase ≠ .idle ∧ t.done = true) ∧
    (∃ t : State, step (refusedAndCleared.withInputs [.resetOn 0]) = .next t ∧ t.status = 0) :=
  ⟨⟨_, rfl, rfl⟩, ⟨_, rfl, rfl⟩, ⟨_, rfl, rfl⟩, ⟨_, rfl, by decide, rfl⟩, ⟨_, rfl, rfl⟩⟩

/-- A rise in a completing turn, and one in a command write that follows V-H6. -/
theorem wit_IrqRisesOnlyAtCompletion :
    (∃ t : State, step ackArrives = .next t ∧ ackArrives.irq = false ∧ t.irq = true) ∧
    (∃ t : State, step (refusedAndCleared.withInputs [commandWrite 0]) = .next t ∧
      (refusedAndCleared.withInputs [commandWrite 0]).irq = false ∧ t.irq = true) :=
  ⟨⟨_, rfl, rfl, rfl⟩, ⟨_, rfl, rfl, rfl⟩⟩

/-- A step on each kind of event the statement speaks of, each with residue in the stream. -/
theorem wit_ResidueStaysInStream :
    (∀ e ∈ [commandWrite 0, .host (.read 0x204 1), .device [0x70], .drain 1, .resetOn 0, .resetOff, .turn none],
      after (step { idle [e] with rxStream := [0x70, 0x99] }) (fun t => t.inputs) = some []) ∧
    after (step { idle [.device [0x70]] with rxStream := [0x99] }) (fun t => t.rxStream) = some [0x99, 0x70] ∧
    (∃ t : State, step State.reset = .next t) ∧ State.reset.inputs = [] ∧
    (∃ t : State, step headerArrives = .next t) ∧ headerArrives.inputs = [.turn (some (.ok 3))] ∧
    headerArrives.phase ≠ .tx ∧ (idle [.turn none]).phase = .idle := by
  refine ⟨by decide, by decide, ⟨_, rfl⟩, rfl, ⟨_, rfl⟩, rfl, by decide, rfl⟩

theorem wit_HardwareNeverWritesPbuf :
    (∃ t : State, step headerArrives = .next t) ∧
    (∀ a bs rest, headerArrives.inputs ≠ .host (.write a bs) :: rest ∧
      ∀ n, headerArrives.inputs ≠ .resetOn n :: rest) :=
  ⟨⟨_, rfl⟩, fun _ _ _ => ⟨fun h => (by cases h), fun _ h => (by cases h)⟩⟩

theorem wit_CompletesWithinThreeTurns :
    let s := idle [commandWrite 0x30000000, .turn (some (.ok 0)), .turn (some (.fail 0)), .turn (some (.ok 255))]
    s.rst = false ∧ s.phase = .idle ∧
      s.inputs = commandWrite 0x30000000 :: .turn (some (.ok 0)) :: .turn (some (.fail 0)) ::
        .turn (some (.ok 255)) :: [] := by decide

theorem wit_ReadExchangeEndToEnd :
    let p : List Byte := List.replicate 254 0xFF
    let s : State :=
      { (idle [commandWrite (packDescriptor 1 0 ((0xFF : Byte).setWidth 16)), .turn (some (.ok 0)),
          .turn (some (.ok 3)), .turn (some (.ok 255))]) with
        rxStream := responseHeader p ++ responseSegment p ++ [0x99] }
    s.rst = false ∧ s.phase = .idle ∧ p.length ≤ 254 ∧ 3 ≤ 3 ∧ p.length + 1 ≤ 255 ∧
      s.rxStream = responseHeader p ++ responseSegment p ++ [0x99] ∧
      s.inputs = commandWrite (packDescriptor 1 0 ((0xFF : Byte).setWidth 16)) :: .turn (some (.ok 0)) ::
        .turn (some (.ok 3)) :: .turn (some (.ok 255)) :: [] :=
  ⟨rfl, rfl, by rw [length_longest], by decide, by rw [length_longest], rfl, rfl⟩

theorem wit_WriteExchangeEndToEnd :
    let s : State :=
      { (idle [commandWrite (packDescriptor 2 254 ((0x10 : Byte).setWidth 16)), .turn (some (.ok 0)),
          .turn (some (.ok 3))]) with rxStream := [0x70, 0x00, 0x70, 0x99] }
    s.rst = false ∧ s.phase = .idle ∧ (254 : BitVec 12).toNat ≤ 254 ∧ 3 ≤ 3 ∧
      s.rxStream = [0x70, 0x00, 0x70] ++ [0x99] ∧
      s.inputs = commandWrite (packDescriptor 2 254 ((0x10 : Byte).setWidth 16)) :: .turn (some (.ok 0)) ::
        .turn (some (.ok 3)) :: [] :=
  ⟨rfl, rfl, by decide, by decide, rfl, rfl⟩

/-- Two blocks with different pasts, and PBUFs that agree on the one byte the WRITE takes. -/
theorem wit_NoProtocolStateSurvives :
    let events : List Input := [commandWrite 0x20010000, .turn (some (.ok 0)), .turn (some (.ok 3)), .turn none]
    let s1 := ((idle events).store .pbuf 0 [0x01]).completeOk
    let s2 := (((idle events).store .pbuf 0 [0x01, 0x99]).setResultInfo 7 0x42).enterError ⟨.checksum, 0x11⟩
    s1.rst = false ∧ s2.rst = false ∧ s1.phase = .idle ∧ s2.phase = .idle ∧
      (∀ i < 256, i < (lenField 0x20010000).toNat → s1.byteAt .pbuf i = s2.byteAt .pbuf i) ∧
      s1.rxStream = s2.rxStream ∧ s1.inputs = events ∧ s2.inputs = s1.inputs ∧ s1.status ≠ s2.status := by
  refine ⟨rfl, rfl, rfl, rfl, fun i _ hi => ?_, rfl, rfl, rfl, by decide⟩
  have h1 : (lenField 0x20010000).toNat = 1 := by decide
  obtain rfl : i = 0 := by omega
  rfl

end Sys2Proof.Tests
end

section
/-! PROOFS. Reserved descriptors (R81): which operation codes are reserved, what the write of such a descriptor to `CMD`
does in IDLE, and O7. -/

namespace Sys2Proof.Machine

/-- The codes that select no operation (R81). -/
theorem operationCode_eq_false_iff (op : BitVec 4) :
    operationCode op = false ↔ op.toNat = 0 ∨ 8 ≤ op.toNat := by
  simp only [operationCode, Bool.and_eq_false_iff, decide_eq_false_iff_not]
  omega

/-- Error entry right after the opening assignments of the accept step is an accept refused at once (R120, R160). -/
theorem State.enterError_beginOp (d : Descriptor) (e : Error) (s : State) :
    (s.beginOp d).enterError ⟨e, 0⟩ = s.refusedAtAccept d e.code := rfl

/-- In IDLE a command write of a reserved descriptor is refused with ENC_ILLEGAL_OP (R81). -/
theorem issueCommand_reserved {d : Descriptor} {s : State} (hp : s.phase = .idle)
    (hop : operationCode (opField d) = false) :
    issueCommand (littleEndian d) s = .next (s.refusedAtAccept d 0x13) := by
  rcases issueCommand_cases d s with ⟨hbusy, -⟩ | ⟨-, -, hissue⟩ | ⟨i, -, -, rfl, -⟩
  · exact absurd hp hbusy
  · rw [hissue, State.enterError_beginOp, Error.code]
  · rw [opField_descriptor, opCode_operation] at hop
    cases hop

/-- Settles O7: the step issues the descriptor, and its code is none of the seven. -/
theorem reservedDescriptorCompletesAtOnce : Obligations.ReservedDescriptorCompletesAtOnce := by
  intro s d rest hr hp hi hop
  have hidle : (s.withInputs rest).phase = .idle := hp
  rw [step_commandWrite hr hi, issueCommand_reserved hidle ((operationCode_eq_false_iff _).mpr hop)]

end Sys2Proof.Machine
end

section
/-! PROOFS. The Frame Codec as functions (R100 to R110): the checksum as an exact sum, the answer table's last row, one
equation per case of the two builders, the seal of a built frame, and the parsers on a valid read response; with them
O31 to O35. -/

namespace Sys2Proof.Machine

/-! ### The checksum (R100) -/

theorem checksum_toNat (s : List Byte) : (checksum s).toNat = (s.map BitVec.toNat).sum % 256 :=
  BitVec.toNat_ofNat _ _

@[simp] theorem checksum_singleton (b : Byte) : checksum [b] = b := by
  rw [checksum_cons, checksum_nil]
  exact add_zero b

/-- Settles O31: an accumulator of eight bits, because the checksum of a concatenation is the sum of the checksums. -/
theorem checksumIsLowByteOfSum : Obligations.ChecksumIsLowByteOfSum := by
  refine ⟨checksum_nil, checksum_toNat, fun s b => ?_⟩
  rw [checksum_append, checksum_singleton]

/-! ### The answer table (R83, R105) -/

/-- The last row of R83: a byte outside the known codes 0 to 4. -/
theorem answerCheck_unrecognized {a : Byte} (ha : 5 ≤ a.toNat) :
    answerCheck a = .error ⟨.devUnrecognized, a⟩ := by
  have unlisted : ∀ c : Byte, c.toNat < 5 → a ≠ c := by
    rintro c hc rfl
    omega
  unfold answerCheck
  rw [if_neg (unlisted 0 (by decide)), if_neg (unlisted 1 (by decide)), if_neg (unlisted 2 (by decide)),
    if_neg (unlisted 3 (by decide)), if_neg (unlisted 4 (by decide))]

/-- Settles O32: the five known codes by evaluation, every other byte by the last row. -/
theorem answerTable : Obligations.AnswerTable :=
  ⟨rfl, rfl, rfl, rfl, rfl, rfl, rfl, rfl, rfl, rfl, fun _ => answerCheck_unrecognized⟩

/-! ### The builders (R103, R104) -/

section
variable {f : BitVec 16} {p : List Byte}

theorem buildRead_ok (hf : f.toNat ≤ 255) : buildRead f = .ok (readFrame (f.setWidth 8)) := by
  rcases buildRead_cases (f := f) rfl with ⟨hf', -⟩ | ⟨-, h⟩
  · omega
  · exact h

theorem buildRead_encRange (hf : 255 < f.toNat) : buildRead f = .error ⟨.encRange, 0⟩ :=
  if_pos hf

theorem buildWrite_encRange (hf : 255 < f.toNat) : buildWrite f p = .error ⟨.encRange, 0⟩ :=
  if_pos hf

theorem buildWrite_encSize (hf : f.toNat ≤ 255) (hp : 254 < p.length) :
    buildWrite f p = .error ⟨.encSize, 0⟩ := by
  rcases buildWrite_cases (f := f) (p := p) rfl with ⟨hf', -⟩ | ⟨-, -, h⟩ | ⟨-, hp', -⟩
  · omega
  · exact h
  · omega

theorem buildWrite_ok (hf : f.toNat ≤ 255) (hp : p.length ≤ 254) :
    buildWrite f p = .ok (writeFrame (f.setWidth 8) p) := by
  rcases buildWrite_cases (f := f) (p := p) rfl with ⟨hf', -⟩ | ⟨-, hp', -⟩ | ⟨-, -, h⟩
  · omega
  · omega
  · exact h

end

/-- The four bytes ahead of the payload (R72). -/
theorem writeFrame_take_four (f : Byte) (p : List Byte) :
    (writeFrame f p).take 4 = [0x8C, 0x00, f, BitVec.ofNat 8 (p.length + 1)] := rfl

/-- The bytes after the first four are the payload and the checksum (R72). -/
theorem writeFrame_drop_four (f : Byte) (p : List Byte) :
    (writeFrame f p).drop 4 =
      p ++ [checksum ([hdrWrite, category, f, BitVec.ofNat 8 (p.length + 1)] ++ p)] := rfl

/-- The seal of R70: the last byte is the checksum of the bytes before it. -/
theorem sealFrame_getLast? (body : List Byte) :
    (sealFrame body).getLast? = some (checksum (sealFrame body).dropLast) := by
  rw [sealFrame, List.getLast?_concat, List.dropLast_concat]

/-- Settles O33: the accepted frame byte by byte is `readFrame_eq`. -/
theorem buildReadFrame : Obligations.BuildReadFrame := by
  refine ⟨rfl, fun f => ⟨fun hf => ?_, buildRead_encRange⟩⟩
  rw [buildRead_ok hf, readFrame_eq]

/-- Settles O34: in the last case the frame is `writeFrame`, read off part by part. -/
theorem buildWriteFrame : Obligations.BuildWriteFrame := by
  refine ⟨rfl, rfl, fun f p => ⟨buildWrite_encRange, buildWrite_encSize, fun hf hp => ?_⟩⟩
  refine ⟨writeFrame (f.setWidth 8) p, buildWrite_ok hf hp, writeFrame_length _ p,
    writeFrame_take_four _ p, ?_, sealFrame_getLast? _⟩
  rw [writeFrame_drop_four, List.take_left]

/-! ### Round trip (R110) -/

/-- What either builder answers with is a sealed frame (R70). -/
theorem built_isSealed {f : BitVec 16} {p frame : List Byte}
    (h : buildRead f = .ok frame ∨ buildWrite f p = .ok frame) :
    ∃ body : List Byte, frame = sealFrame body := by
  rcases h with h | h
  · rcases buildRead_cases h with ⟨-, hr⟩ | ⟨-, hr⟩
    · cases hr
    · exact ⟨_, Except.ok.inj hr⟩
  · rcases buildWrite_cases h with ⟨-, hr⟩ | ⟨-, -, hr⟩ | ⟨-, -, hr⟩
    · cases hr
    · cases hr
    · exact ⟨_, Except.ok.inj hr⟩

/-- The length field holds the length of a segment of up to 255 bytes (R76). -/
theorem lengthField_toNat {p : List Byte} (hp : p.length ≤ 254) :
    (BitVec.ofNat 8 (p.length + 1) : Byte).toNat = p.length + 1 := by
  rw [BitVec.toNat_ofNat]
  omega

theorem parseReadHdr_responseHeader (p : List Byte) :
    parseReadHdr (responseHeader p) = .ok (BitVec.ofNat 8 (p.length + 1)) :=
  (parseReadHdr_ok_iff _ _).mpr rfl

theorem parseReadBody_response {p : List Byte} (hp : p.length ≤ 254) :
    parseReadBody (responseHeader p) (responseSegment p) = .ok p := by
  have hdeclared : ((responseHeader p).getD 2 0).toNat = p.length + 1 := lengthField_toNat hp
  have hpos : 1 ≤ ((responseHeader p).getD 2 0).toNat := by omega
  exact (parseReadBody_ok_iff _ _ p hpos).mpr ⟨hdeclared.symm, rfl⟩

/-- Settles O35: the parsers accept the valid response, and every built frame is sealed. -/
theorem parseRoundTrip : Obligations.ParseRoundTrip := by
  refine ⟨fun p hp => ?_, fun f p frame _ hbuilt => ?_⟩
  · exact ⟨parseReadHdr_responseHeader p, lengthField_toNat hp, parseReadBody_response hp⟩
  · obtain ⟨body, rfl⟩ := built_isSealed hbuilt
    exact sealFrame_getLast? body

end Sys2Proof.Machine
end

section
/-! PROOFS. The TX step (R121): one equation per answer of the transport, and O18. -/

namespace Sys2Proof.Machine

/-! ### The TX step by answer (R56, R121) -/

section
variable {s : State}

/-- After `ok` the frame is out and the operation awaits its header; `k` plays no part in a write. -/
theorem txStep_ok {k : Nat} (h : s.answer = some (.ok k)) :
    txStep s = (s.sendBytes s.txFrame).awaitHeader := by
  rw [txStep, xportWrite, h]

/-- After `fail` the first `k` bytes are out (R56) and the operation ends in error entry (R160). -/
theorem txStep_fail {k : Nat} (h : s.answer = some (.fail k)) :
    txStep s = (s.sendBytes (s.txFrame.take k)).enterError ⟨.xportWriteFail, 0⟩ := by
  rw [txStep, xportWrite, h]

/-- While the transport has not answered the step is not enabled (R189). -/
theorem txStep_unanswered (h : s.answer = none) : txStep s = s := by
  rw [txStep, xportWrite, h]

end

/-- Settles O18: in TX every operation runs `txStep`, which has one outcome per answer of the transport. -/
theorem txStepSendsWholeFrame : Obligations.TxStepSendsWholeFrame := by
  intro i s hp
  rw [exec_tx i hp]
  refine ⟨fun k hok => ?_, fun k hfail => ?_, fun hnone => ?_⟩
  · rw [txStep_ok hok, State.sendBytes, State.awaitHeader]
  · rw [txStep_fail hfail, State.sendBytes, State.enterError, Error.code]
  · rw [txStep_unanswered hnone]

end Sys2Proof.Machine
end

section
/-! PROOFS. Descriptors (R54, R78 to R81, R90): the descriptor word as a number, the decoder on a packed word
and on bytes, and the operation codes that decode; with them O1 to O5. -/

namespace Sys2Proof.Machine

/-- The decoder reads the three fields that were packed. -/
theorem decodeWord_pack (op : BitVec 4) (len : BitVec 12) (arg : BitVec 16) :
    decodeWord (packDescriptor op len arg) = decodeFields op len arg := by
  rw [decodeWord, opField_pack, lenField_pack, argField_pack]

/-- The descriptor of an operation selects that operation (R80). -/
theorem decodeWord_descriptor (i : Instr) : decodeWord (descriptor i) = .ok i := by
  cases i <;> exact decodeWord_pack _ _ _

/-- Settles O2: the four bytes spell the descriptor word, and the word selects the operation. -/
theorem decodeInvertsEncode : Obligations.DecodeInvertsEncode := by
  intro i
  rw [encode, decode_littleEndian, decodeWord_descriptor]

/-- A concatenation of bit vectors, as a number. -/
theorem toNat_append_eq_mul_add {n m : Nat} (x : BitVec n) (y : BitVec m) :
    (x ++ y).toNat = x.toNat * 2 ^ m + y.toNat := by
  rw [BitVec.toNat_append, ← Nat.shiftLeft_add_eq_or_of_lt y.isLt, Nat.shiftLeft_eq]

/-- The descriptor word is `(OP << 28) | (LEN << 16) | ARG` (R90). -/
theorem packDescriptor_toNat (op : BitVec 4) (len : BitVec 12) (arg : BitVec 16) :
    (packDescriptor op len arg).toNat = op.toNat * 2 ^ 28 + len.toNat * 2 ^ 16 + arg.toNat := by
  rw [packDescriptor, toNat_append_eq_mul_add, toNat_append_eq_mul_add]
  omega

/-- Settles O1: the word as a number, and one read-back law per field. -/
theorem descriptorLayout : Obligations.DescriptorLayout := fun op len arg =>
  ⟨packDescriptor_toNat op len arg, opField_pack op len arg, lenField_pack op len arg,
    argField_pack op len arg⟩

/-- A descriptor is exactly four bytes (R54). -/
theorem length_of_decode_ok {bs : List Byte} {i : Instr} (h : decode bs = .ok i) : bs.length = 4 := by
  unfold decode at h
  split at h
  · rfl
  · cases h

/-- Settles O3: bytes that decode are four, so they are the bytes of the descriptor word they spell. -/
theorem encodeInvertsDecode : Obligations.EncodeInvertsDecode := by
  intro bs i h
  have hbytes : littleEndian (descriptorOf bs) = bs := littleEndian_descriptorOf (length_of_decode_ok h)
  have hword : decodeWord (descriptorOf bs) = .ok i := by rw [← decode_littleEndian, hbytes, h]
  rw [encode, descriptor_of_decodeWord hword, hbytes]

theorem operationCode_iff (op : BitVec 4) :
    operationCode op = true ↔ 1 ≤ op.toNat ∧ op.toNat ≤ 7 := by
  simp only [operationCode, Bool.and_eq_true, decide_eq_true_eq]

/-- An operation is selected by its own code (R80). -/
theorem opCode_of_decodeWord {d : Descriptor} {i : Instr} (h : decodeWord d = .ok i) :
    opCode i = opField d :=
  (decodeFields_ok h).1.symm

/-- Settles O4: the codes that decode are those of the seven operations. -/
theorem operationSelectedByOpAlone : Obligations.OperationSelectedByOpAlone := by
  intro d
  rw [← operationCode_iff]
  refine ⟨fun i => opCode_of_decodeWord, fun ⟨i, hi⟩ => ?_, fun hop => ?_⟩
  · rw [← opCode_of_decodeWord hi]
    exact opCode_operation i
  · exact decodeFields_of_operation hop _ _

/-- Settles O5: each example is the encoding of its row's operation. -/
theorem tableExamplesDecode : Obligations.TableExamplesDecode :=
  ⟨decodeInvertsEncode (.read 0 0x02), decodeInvertsEncode (.write 1 0x00),
    decodeInvertsEncode (.getPower 0 0), decodeInvertsEncode (.setPower 0 1),
    decodeInvertsEncode (.setPicture 0 4), decodeInvertsEncode (.getInput 0 0),
    decodeInvertsEncode (.setInput 0 7)⟩

end Sys2Proof.Machine
end

section
/-! PROOFS. The host accesses the model turns away (U15, notes/assumptions/7.md): one equation each for a
refused and an answered access; with them O45. -/

namespace Sys2Proof.Machine

section
variable {a : BitVec 10} {s : State}

theorem accessOk_of_turnedAway {n : Nat} (h : turnedAway a.toNat n) : accessOk a.toNat n = false :=
  (accessOk_eq_false_iff n a.isLt).mpr h

theorem accessOk_of_not_turnedAway {n : Nat} (h : ¬ turnedAway a.toNat n) : accessOk a.toNat n = true := by
  rw [← accessOk_eq_false_iff n a.isLt, Bool.not_eq_false] at h
  exact h

theorem hostRead_answered {n : Nat} (h : ¬ turnedAway a.toNat n) :
    hostRead a.toNat n s = .next ((hostReadBytes a.toNat n s).2.withReadData (hostReadBytes a.toNat n s).1) :=
  if_pos (accessOk_of_not_turnedAway h)

theorem hostRead_turnedAway {n : Nat} (h : turnedAway a.toNat n) :
    hostRead a.toNat n s = .refused (.wideAccess a.toNat n) := by
  rw [hostRead, accessOk_of_turnedAway h]
  rfl

theorem hostWrite_answered {bs : List Byte} (h : ¬ turnedAway a.toNat bs.length) :
    hostWrite a.toNat bs s = .next (hostWriteBytes a.toNat bs s) :=
  if_pos (accessOk_of_not_turnedAway h)

theorem hostWrite_turnedAway {bs : List Byte} (h : turnedAway a.toNat bs.length) :
    hostWrite a.toNat bs s = .refused (.wideAccess a.toNat bs.length) := by
  rw [hostWrite, accessOk_of_turnedAway h]
  rfl

theorem isCommandWrite_iff (a : Nat) (bs : List Byte) :
    isCommandWrite a bs = true ↔ a = 0x200 ∧ bs.length = 4 := by
  simp only [isCommandWrite, Bool.and_eq_true, decide_eq_true_eq]

/-- Out of reset a write that is not the command write is a plain host write (R54). -/
theorem hostAccess_write {bs : List Byte} (hr : s.rst = false) (h : ¬ (a.toNat = 0x200 ∧ bs.length = 4)) :
    hostAccess (.write a bs) s = hostWrite a.toNat bs s := by
  have hplain : isCommandWrite a.toNat bs = false := by
    rw [← Bool.not_eq_true, isCommandWrite_iff]
    exact h
  simp [hostAccess, hr, hplain]

/-- The command write itself, `0x200` to `0x203`, ends before the byte registers. -/
theorem not_commandWrite_of_turnedAway {bs : List Byte} (h : turnedAway a.toNat bs.length) :
    ¬ (a.toNat = 0x200 ∧ bs.length = 4) := by
  rintro ⟨ha, hl⟩
  rw [turnedAway, ha, hl] at h
  omega

end

/-- Settles O45: both kinds of access are refused by the same test of address and width. -/
theorem wideRegisterAccessRefused : Obligations.WideRegisterAccessRefused := by
  rintro s a n bs rest hwide rfl
  refine ⟨fun hi => ?_, fun hr hi => ?_⟩
  · rw [step_cons hi, applyInput, hostAccess, hostRead_turnedAway hwide]
  · have hlow : (s.withInputs rest).rst = false := hr
    rw [step_cons hi, applyInput, hostAccess_write hlow (not_commandWrite_of_turnedAway hwide),
      hostWrite_turnedAway hwide]

end Sys2Proof.Machine
end

section
/-! PROOFS. The block's invariant (R24 to R35, R180): the part that concerns what is stored, kept by every
update of the state; the part that concerns the operation in flight, per kind of step; and O49, O50, O51. -/

namespace Sys2Proof.Machine

/-- The clauses of `BlockInv` that hold in every phase: the form and range of the memories and the ranges of
the registers. The other clauses say nothing of an idle block out of reset (`StorageInv.blockInv_of_idle`). -/
structure StorageInv (s : State) : Prop where
  mem_wf : Memory.wf s.mem
  txbuf_wf : Memory.wf s.txbuf
  hdr_wf : Memory.wf s.hdr
  mem_range : ∀ c ∈ s.mem, c.1 < 0x1FE
  txbuf_range : ∀ c ∈ s.txbuf, c.1 < 259
  hdr_range : ∀ c ∈ s.hdr, c.1 < 3
  status_legal : s.status ∈ legalStatus
  rlen_le : s.rlen.toNat ≤ 254
  result_le : s.result.toNat ≤ 12
  txlen_le : s.txlen.toNat ≤ 259
  rbuf_written : ∀ i < s.rlen.toNat, (Memory.read s.mem (0x100 + i)).isSome = true

theorem BlockInv.storage {s : State} (h : BlockInv s) : StorageInv s := { h with }

/-- Out of reset the clause on reset asks for nothing. -/
theorem reset_held_of_low {s : State} (hr : s.rst = false) : s.rst = true → s.atResetValues = true :=
  fun hrst => absurd hrst (by rw [hr]; decide)

/-- An idle block out of reset has no other clause to meet. -/
theorem StorageInv.blockInv_of_idle {s : State} (h : StorageInv s) (hp : s.phase = .idle)
    (hr : s.rst = false) : BlockInv s :=
  { h with
    busy_opl := fun hbusy => absurd hp hbusy
    busy_clear := fun hbusy => absurd hp hbusy
    tx_frame := fun htx => by rw [hp] at htx; cases htx
    body_readType := fun hbody => by rw [hp] at hbody; cases hbody
    reset_held := reset_held_of_low hr }

/-! ### What is stored, update by update -/

section
variable {s : State}

theorem legalStatus_zero : (0x00 : Byte) ∈ legalStatus := by decide

theorem StorageInv.consume (h : StorageInv s) (n : Nat) : StorageInv (s.consume n) := { h with }

theorem StorageInv.sendBytes (h : StorageInv s) (bs : List Byte) : StorageInv (s.sendBytes bs) :=
  { h with }

theorem StorageInv.enterError (h : StorageInv s) (r : Raise) : StorageInv (s.enterError r) :=
  { h with status_legal := r.err.code_legal.1 }

theorem StorageInv.completeOk (h : StorageInv s) : StorageInv s.completeOk :=
  { h with status_legal := legalStatus_zero }

theorem StorageInv.setResultInfo (h : StorageInv s) {r : Byte} (hr : r.toNat ≤ 12) (v : Byte) :
    StorageInv (s.setResultInfo r v) :=
  { h with result_le := hr }

theorem StorageInv.beginOp (h : StorageInv s) (d : Descriptor) : StorageInv (s.beginOp d) :=
  { h with
    status_legal := legalStatus_zero
    rlen_le := Nat.zero_le _
    result_le := Nat.zero_le _
    rbuf_written := fun _ hi => absurd hi (Nat.not_lt_zero _) }

theorem txlen_launch {op : BitVec 4} {frame : List Byte} (hl : frame.length ≤ 259) :
    (s.launch op frame).txlen.toNat = frame.length := by
  rw [State.launch_txlen, BitVec.toNat_ofNat]
  omega

theorem StorageInv.launch (h : StorageInv s) (op : BitVec 4) {frame : List Byte}
    (hl : frame.length ≤ 259) : StorageInv (s.launch op frame) :=
  { h with
    txbuf_wf := Memory.writeBytes_wf h.txbuf_wf _ _
    txbuf_range := Memory.writeBytes_range h.txbuf_range (by omega)
    txlen_le := (txlen_launch hl).trans_le hl }

theorem StorageInv.latchHeader (h : StorageInv s) {r : List Byte} (hl : r.length = 3) :
    StorageInv (s.latchHeader r) :=
  { h with
    hdr_wf := Memory.writeBytes_wf h.hdr_wf _ _
    hdr_range := Memory.writeBytes_range h.hdr_range (by omega) }

theorem rlen_storePayload {p : List Byte} (hl : p.length ≤ 254) :
    (s.storePayload p).rlen.toNat = p.length := by
  rw [State.storePayload_rlen, BitVec.toNat_ofNat]
  omega

theorem StorageInv.storePayload (h : StorageInv s) {p : List Byte} (hl : p.length ≤ 254) :
    StorageInv (s.storePayload p) :=
  { h with
    mem_wf := Memory.writeBytes_wf h.mem_wf _ _
    mem_range := Memory.writeBytes_range h.mem_range (by omega)
    rlen_le := (rlen_storePayload hl).trans_le hl
    rbuf_written := fun i hi => by
      rw [rlen_storePayload hl] at hi
      rw [State.storePayload_mem, Memory.read_writeBytes_inside _ _ _ _ hi]
      simp [hi] }

end

/-! ### The host's writes -/

section
variable {s : State}

theorem BlockInv.store_pbuf (h : BlockInv s) (hr : s.rst = false) {a : Nat} (ha : a < 0x100)
    (v : Byte) : BlockInv (s.store .pbuf a [v]) :=
  { h with
    mem_wf := Memory.writeBytes_wf h.mem_wf _ _
    mem_range := Memory.writeBytes_range h.mem_range (by simp; omega)
    rbuf_written := fun i hi => by
      rw [State.store_pbuf_mem, Memory.read_writeBytes_outside _ _ _ _ (by simp; omega)]
      exact h.rbuf_written i hi
    reset_held := reset_held_of_low hr }

theorem BlockInv.clearFlags (h : BlockInv s) (hr : s.rst = false) (w : Byte) :
    BlockInv (s.clearFlags w) :=
  { h with
    busy_clear := fun hbusy => by
      obtain ⟨hdone, hregs⟩ := h.busy_clear hbusy
      exact ⟨by rw [State.clearFlags_done, hdone, Bool.false_and], hregs⟩
    reset_held := reset_held_of_low hr }

theorem BlockInv.setOverrun (h : BlockInv s) (hr : s.rst = false) : BlockInv s.setOverrun :=
  { h with reset_held := reset_held_of_low hr }

theorem BlockInv.of_hostWriteByte (h : BlockInv s) (hr : s.rst = false) (a : Nat) (v : Byte) :
    BlockInv (hostWriteByte a v s) := by
  rcases hostWriteByte_cases a v s with ⟨ha, hw⟩ | ⟨-, hw⟩ | ⟨-, -, hw⟩ <;> rw [hw]
  · exact h.store_pbuf hr ha v
  · exact h.clearFlags hr v
  · exact h

theorem hostWriteByte_rst (a : Nat) (v : Byte) (s : State) : (hostWriteByte a v s).rst = s.rst := by
  rcases hostWriteByte_cases a v s with ⟨-, hw⟩ | ⟨-, hw⟩ | ⟨-, -, hw⟩ <;> rw [hw]
  · exact State.store_rst _ _ _ _
  · exact State.clearFlags_rst _ _

theorem BlockInv.of_hostWriteBytes (h : BlockInv s) (hr : s.rst = false) (a : Nat) (bs : List Byte) :
    BlockInv (hostWriteBytes a bs s) := by
  have hkept := hostWriteBytes_induct (fun t => BlockInv t ∧ t.rst = false)
    (fun b v t ⟨ht, hrt⟩ => ⟨ht.of_hostWriteByte hrt b v, (hostWriteByte_rst b v t).trans hrt⟩)
    a bs s ⟨h, hr⟩
  exact hkept.1

end

/-! ### Accept, and the steps of an operation in flight -/

section
variable {s : State}

/-- An accept that is refused ends idle (R120, R160). -/
theorem BlockInv.refused (h : BlockInv s) (hr : s.rst = false) (d : Descriptor) (r : Raise) :
    BlockInv ((s.beginOp d).enterError r) :=
  ((h.storage.beginOp d).enterError r).blockInv_of_idle rfl hr

/-- An accept that launches a sealed frame of 5 to 259 bytes leads to TX (R120). -/
theorem BlockInv.launched (h : BlockInv s) (hr : s.rst = false) {d : Descriptor}
    (hop : operationCode (opField d) = true) {body : List Byte} (h4 : 4 ≤ body.length)
    (h258 : body.length ≤ 258) :
    BlockInv ((s.beginOp d).launch (opField d) (sealFrame body)) := by
  have hlen : (sealFrame body).length = body.length + 1 := sealFrame_length body
  have hl : (sealFrame body).length ≤ 259 := by omega
  exact
    { (h.storage.beginOp d).launch (opField d) hl with
      busy_opl := fun _ => ⟨rfl, hop⟩
      busy_clear := fun _ => ⟨rfl, rfl, rfl, rfl, rfl⟩
      tx_frame := fun _ =>
        ⟨by rw [txlen_launch hl]; omega, body, State.txFrame_launch _ _ _ (by omega)⟩
      body_readType := fun hbody => by cases hbody
      reset_held := reset_held_of_low hr }

theorem BlockInv.of_accept (h : BlockInv s) (hr : s.rst = false) (i : Instr) :
    BlockInv (accept (descriptor i) (requestOf i s) s) := by
  rcases requestOf_cases i s with ⟨e, -, hq⟩ | ⟨body, h4, h258, hq⟩ <;> rw [hq]
  · exact h.refused hr _ _
  · exact h.launched hr (by rw [opField_descriptor]; exact opCode_operation i) h4 h258

/-- After the frame is out the operation awaits its header (R121). -/
theorem BlockInv.sent (h : BlockInv s) (hr : s.rst = false) (hp : s.phase = .tx) (bs : List Byte) :
    BlockInv (s.sendBytes bs).awaitHeader :=
  have hbusy : s.phase ≠ .idle := by rw [hp]; simp
  { h with
    busy_opl := fun _ => h.busy_opl hbusy
    busy_clear := fun _ => h.busy_clear hbusy
    tx_frame := fun htx => by cases htx
    body_readType := fun hbody => by cases hbody
    reset_held := reset_held_of_low hr }

theorem State.header_eq (s : State) :
    s.header = [s.byteAt .hdr 0, s.byteAt .hdr 1, s.byteAt .hdr 2] := rfl

/-- A read-type operation that accepts its header moves to RXBODY (R122). -/
theorem BlockInv.latched (h : BlockInv s) (hr : s.rst = false) (hp : s.phase = .rxhdr)
    (hread : readTypeCode s.opl = true) (n : Nat) (l : Byte) : 
    BlockInv ((s.consume n).latchHeader [hdrResp, 0, l]) := by
  have hbusy : s.phase ≠ .idle := by rw [hp]; simp
  have hheader := State.header_latchHeader [hdrResp, 0, l] (s.consume n) rfl
  rw [State.header_eq] at hheader
  injection hheader with h0 htail
  injection htail with h1
  exact
    { (h.storage.consume n).latchHeader (r := [hdrResp, 0, l]) rfl with
      busy_opl := fun _ => h.busy_opl hbusy
      busy_clear := fun _ => h.busy_clear hbusy
      tx_frame := fun htx => by cases htx
      body_readType := fun _ => ⟨hread, h0, h1⟩
      reset_held := reset_held_of_low hr }

/-- One step of the operation in flight keeps the invariant, wherever it leads. -/
theorem BlockInv.of_exec_busy {i : Instr} {t : State} (h : BlockInv s) (hr : s.rst = false)
    (hp : s.phase ≠ .idle) (hi : opCode i = s.opl) (hx : exec i s = .next t) : BlockInv t := by
  have hs := h.storage
  rcases exec_busy_next i hp hx with rfl | ⟨htx, rfl⟩ | ⟨k, -, rfl⟩ | ⟨l, hhdr, hread, rfl⟩ |
    ⟨n, e, -, -, rfl⟩ | ⟨n, p, e, -, -, hl, rfl⟩ | ⟨-, -, rfl⟩ | ⟨n, p, r, v, -, -, hl, hres, rfl⟩
  · exact h
  · exact h.sent hr htx _
  · exact ((hs.sendBytes _).enterError _).blockInv_of_idle rfl hr
  · rw [isReadType, hi] at hread
    exact h.latched hr hhdr hread 3 l
  · exact ((hs.consume n).enterError e).blockInv_of_idle rfl hr
  · exact (((hs.consume n).storePayload hl).enterError e).blockInv_of_idle rfl hr
  · exact (hs.consume 3).completeOk.blockInv_of_idle rfl hr
  · have hr12 : r.toNat ≤ 12 := by
      rcases hres with rfl | hle
      · exact h.result_le
      · exact hle
    exact (((hs.consume n).storePayload hl).setResultInfo hr12 v).completeOk.blockInv_of_idle rfl hr

end

/-! ### Reset (R35, R180) -/

/-- Reset values meet the clauses on what is stored. -/
theorem storageInv_resetBlock (s : State) : StorageInv s.resetBlock where
  mem_wf := List.Pairwise.nil
  txbuf_wf := List.Pairwise.nil
  hdr_wf := List.Pairwise.nil
  mem_range := fun _ hc => absurd hc List.not_mem_nil
  txbuf_range := fun _ hc => absurd hc List.not_mem_nil
  hdr_range := fun _ hc => absurd hc List.not_mem_nil
  status_legal := legalStatus_zero
  rlen_le := Nat.zero_le _
  result_le := Nat.zero_le _
  txlen_le := Nat.zero_le _
  rbuf_written := fun _ hi => absurd hi (Nat.not_lt_zero _)

/-- Releasing the reset pin keeps every clause, and the one on reset asks for nothing then. -/
theorem BlockInv.releaseReset {s : State} (h : BlockInv s) : BlockInv s.releaseReset :=
  { h with reset_held := fun hrst => by cases hrst }

/-- The rise of `rst` establishes the invariant from any state. -/
theorem blockInv_assertReset (n : Nat) (s : State) : BlockInv (s.assertReset n) :=
  { storageInv_resetBlock s with
    busy_opl := fun hbusy => absurd rfl hbusy
    busy_clear := fun hbusy => absurd rfl hbusy
    tx_frame := fun htx => by cases htx
    body_readType := fun hbody => by cases hbody
    reset_held := fun _ => rfl }

/-- Settles O49: the state after reset is the idle block out of reset with reset values. -/
theorem invariantAtReset : Obligations.InvariantAtReset :=
  StorageInv.blockInv_of_idle { storageInv_resetBlock State.reset with } rfl rfl

/-! ### The step -/

/-- Every event of the schedule keeps the invariant. -/
theorem BlockInv.of_applyInput {e : Input} {s t : State} (h : BlockInv s)
    (ht : applyInput e s = .next t) : BlockInv t := by
  rcases applyInput_cases ht with ⟨a, n, bs, k, -, -, rfl⟩ | ⟨a, bs, -, -, rfl⟩ | ⟨a, bs, -, hr, rfl⟩ |
    ⟨d, -, hr, -, rfl⟩ | ⟨d, i, -, hr, -, rfl, rfl⟩ | ⟨d, -, hr, -, -, rfl⟩ | ⟨x, -, -, rfl⟩ |
    ⟨x, i, -, hr, hp, hi, hx⟩ | ⟨bs, -, rfl⟩ | ⟨n, -, rfl⟩ | ⟨n, -, rfl⟩ | ⟨-, rfl⟩
  case inl => exact h.of_env rfl
  · exact h
  · exact h.of_hostWriteBytes hr _ _
  · exact h.setOverrun hr
  · exact h.of_accept hr i
  · exact h.refused hr d _
  · exact h
  · exact (h.of_env (t := s.offer x) rfl).of_exec_busy hr hp hi hx
  · exact h.of_env rfl
  · exact h.of_env rfl
  · exact blockInv_assertReset n s
  · exact h.releaseReset

/-- Settles O50: the invariant does not see the schedule, and every event keeps it. -/
theorem stepKeepsInvariant : Obligations.StepKeepsInvariant := by
  intro s t h hstep
  obtain ⟨e, u, happly, ⟨-, -, rfl⟩ | ⟨rest, -, rfl⟩⟩ := step_next hstep
  · exact h.of_applyInput happly
  · exact (h.of_env (t := s.withInputs rest) rfl).of_applyInput happly

/-! ### No fault -/

/-- An operation in flight has a step in every phase but a write-type one in RXBODY (R123). -/
theorem exec_busy_answers {i : Instr} {s : State} (hp : s.phase ≠ .idle)
    (hbody : s.phase = .rxbody → isReadType i = true) : ∃ t, exec i s = .next t := by
  rcases exec_busy_cases i s hp with ⟨-, hx⟩ | ⟨-, -, hx⟩ | ⟨-, -, hx⟩ | ⟨-, -, hx⟩ | ⟨hrx, hwrite, -⟩
  · exact ⟨_, hx⟩
  · exact ⟨_, hx⟩
  · exact ⟨_, hx⟩
  · exact ⟨_, hx⟩
  · rw [hbody hrx] at hwrite
    cases hwrite

/-- Under the invariant the operation in flight has a step in every phase (R28, R123). -/
theorem BlockInv.exec_next {i : Instr} {s : State} (h : BlockInv s) (hp : s.phase ≠ .idle)
    (hi : opCode i = s.opl) : ∃ t, exec i s = .next t :=
  exec_busy_answers hp fun hbody => by
    rw [isReadType, hi]
    exact (h.body_readType hbody).1

/-- Under the invariant a turn of the sequencer answers a next state: OPL is an operation code while it
matters (R28). -/
theorem BlockInv.sequencerTurn_next {s : State} (h : BlockInv s) (x : Option Answer) :
    ∃ t, sequencerTurn x s = .next t := by
  rcases sequencerTurn_cases x s with ⟨-, hx⟩ | ⟨hp, hop, -⟩ | ⟨i, hp, -, hi, hx⟩
  · exact ⟨s, hx⟩
  · rw [(h.busy_opl hp).2] at hop
    cases hop
  · rw [hx]
    exact (h.of_env (t := s.offer x) rfl).exec_next hp hi

/-- A command write always answers a next state (R21, R81). -/
theorem issueCommand_next (d : Descriptor) (s : State) :
    ∃ t, issueCommand (littleEndian d) s = .next t := by
  rcases issueCommand_cases d s with ⟨-, hx⟩ | ⟨-, -, hx⟩ | ⟨i, -, -, -, hx⟩ <;> exact ⟨_, hx⟩

/-- Every host access answers a next state, or is turned away under its own address and width. -/
theorem hostAccess_next_or_turnedAway (acc : Access) (s : State) :
    (∃ t, hostAccess acc s = .next t) ∨
      (turnedAway acc.addr acc.width ∧ hostAccess acc s = .refused (.wideAccess acc.addr acc.width)) := by
  cases acc with
  | read a n =>
    by_cases hwide : turnedAway a.toNat n
    · exact .inr ⟨hwide, hostRead_turnedAway hwide⟩
    · exact .inl ⟨_, hostRead_answered hwide⟩
  | write a bs =>
    cases hr : s.rst with
    | true => exact .inl ⟨s, by simp [hostAccess, hr]⟩
    | false =>
      by_cases hcmd : a.toNat = 0x200 ∧ bs.length = 4
      · obtain ⟨t, ht⟩ := issueCommand_next (descriptorOf bs) s
        rw [littleEndian_descriptorOf hcmd.2] at ht
        exact .inl ⟨t, by simp [hostAccess, hr, (isCommandWrite_iff _ _).mpr hcmd, ht]⟩
      · rw [hostAccess_write hr hcmd]
        by_cases hwide : turnedAway a.toNat bs.length
        · exact .inr ⟨hwide, hostWrite_turnedAway hwide⟩
        · exact .inl ⟨_, hostWrite_answered hwide⟩

/-- Under the invariant every event answers a next state, but for a host access that is turned away. -/
theorem BlockInv.applyInput_next_or_turnedAway {s : State} (h : BlockInv s) (e : Input) :
    (∃ t, applyInput e s = .next t) ∨
      ∃ acc, e = .host acc ∧ turnedAway acc.addr acc.width ∧
        applyInput e s = .refused (.wideAccess acc.addr acc.width) := by
  cases e with
  | host acc =>
    rcases hostAccess_next_or_turnedAway acc s with hnext | ⟨hwide, href⟩
    · exact .inl hnext
    · exact .inr ⟨acc, rfl, hwide, href⟩
  | turn x =>
    cases hr : s.rst with
    | true => exact .inl ⟨s, by simp [applyInput, hr]⟩
    | false =>
      obtain ⟨t, ht⟩ := h.sequencerTurn_next x
      exact .inl ⟨t, by simp [applyInput, hr, ht]⟩
  | device bs => exact .inl ⟨_, rfl⟩
  | drain n => exact .inl ⟨_, rfl⟩
  | resetOn n => exact .inl ⟨_, rfl⟩
  | resetOff => exact .inl ⟨_, rfl⟩

/-- Settles O51: the next event answers a next state or is the host access that is turned away. -/
theorem noFaultUnderInvariant : Obligations.NoFaultUnderInvariant := by
  intro s h
  rcases step_eq s with ⟨-, hstep⟩ | ⟨e, rest, hi, hstep⟩ <;> rw [hstep]
  · rcases h.applyInput_next_or_turnedAway (.turn none) with ⟨t, ht⟩ | ⟨acc, hacc, -⟩
    · rw [ht]
      exact ⟨trivial, fun _ _ href => by cases href⟩
    · cases hacc
  · have hu : BlockInv (s.withInputs rest) := h.of_env rfl
    rcases hu.applyInput_next_or_turnedAway e with ⟨t, ht⟩ | ⟨acc, rfl, hwide, href⟩
    · rw [ht]
      exact ⟨trivial, fun _ _ href => by cases href⟩
    · rw [href]
      refine ⟨hwide, fun a n heq => ?_⟩
      cases heq
      exact ⟨acc, rest, hi, rfl, rfl⟩

end Sys2Proof.Machine
end

section
/-! PROOFS. The accept step (R21, R120): what a command write and a turn run, the request each operation
launches, and the refusals of illegal fields; with them O6, O8 and O9 to O17. -/

namespace Sys2Proof.Machine

/-! ### The step runs the operation (R21, R28) -/

/-- In IDLE a command write runs the operation its bytes select (R120). -/
theorem issueCommand_idle {bs : List Byte} {i : Instr} {s : State} (hp : s.phase = .idle)
    (hd : decode bs = .ok i) : issueCommand bs s = exec i s := by
  simp only [issueCommand, hp, hd]

/-- While an operation is in flight a command write is dropped (R21). -/
theorem issueCommand_busy {d : Descriptor} {s : State} (hp : s.phase ≠ .idle) :
    issueCommand (littleEndian d) s = .next s.setOverrun := by
  rcases issueCommand_cases d s with ⟨-, hx⟩ | ⟨hidle, -⟩ | ⟨i, hidle, -⟩
  · exact hx
  · exact absurd hidle hp
  · exact absurd hidle hp

/-- Settles O6: bytes that decode are those of a command write, and a turn runs the operation OPL names. -/
theorem stepRunsDecodedOperation : Obligations.StepRunsDecodedOperation := by
  refine ⟨fun s bs rest i hr hp hi hd => ?_, fun s a rest i hr hp hi hf => step_turn hr hp hi hf⟩
  have hbytes : littleEndian (descriptorOf bs) = bs := littleEndian_descriptorOf (length_of_decode_ok hd)
  have hcmd : s.inputs = commandWrite (descriptorOf bs) :: rest := by rw [commandWrite, hbytes, hi]
  have hidle : (s.withInputs rest).phase = .idle := hp
  rw [step_commandWrite hr hcmd, hbytes, issueCommand_idle hidle hd]

/-- Settles O8: the step issues the descriptor, which a busy block drops. -/
theorem commandWhileBusyIsDropped : Obligations.CommandWhileBusyIsDropped := by
  intro s d rest hr hp hi
  have hbusy : (s.withInputs rest).phase ≠ .idle := hp
  rw [step_commandWrite hr hi, issueCommand_busy hbusy]
  rfl

/-! ### The request frames, byte by byte (R125, R126, R136 to R144) -/

theorem writeFrame_one (f b : Byte) : writeFrame f [b] = [0x8C, 0x00, f, 0x02, b, 0x8E + f + b] := by
  simp only [writeFrame, sealFrame, hdrWrite, category, checksum_cons, checksum_nil, List.length_cons,
    List.length_nil, List.cons_append, List.nil_append]
  congr 6
  bv_omega

theorem writeFrame_two (f b0 b1 : Byte) :
    writeFrame f [b0, b1] = [0x8C, 0x00, f, 0x03, b0, b1, 0x8F + f + b0 + b1] := by
  simp only [writeFrame, sealFrame, hdrWrite, category, checksum_cons, checksum_nil, List.length_cons,
    List.length_nil, List.cons_append, List.nil_append]
  congr 7
  bv_omega

theorem writeFrame_eq_writeRequest (f : Byte) (p : List Byte) : writeFrame f p = writeRequest f p := rfl

section
variable {s : State} {f : Byte}

/-- An operation whose request is a read of `f` launches the six bytes of R71. -/
theorem exec_launches_read {i : Instr} (hp : s.phase = .idle) (hq : requestOf i s = .ok (readFrame f)) :
    ∃ t, exec i s = .next t ∧ Launches s t (descriptor i) [0x83, 0x00, f, 0xFF, 0xFF, 0x81 + f] := by
  rw [← readFrame_eq]
  exact exec_launches (by rw [readFrame_length]; omega) hp hq

/-- An operation whose request is a write of `p` to `f` launches the frame of R72. -/
theorem exec_launches_write {i : Instr} {p : List Byte} (hp : s.phase = .idle) (hl : p.length ≤ 254)
    (hq : requestOf i s = .ok (writeFrame f p)) :
    ∃ t, exec i s = .next t ∧ Launches s t (descriptor i) (writeFrame f p) :=
  exec_launches (by rw [writeFrame_length]; omega) hp hq

end

/-! ### Accepted requests, operation by operation -/

theorem requestRead_ok {func : BitVec 16} (hf : func.toNat ≤ 255) :
    requestRead 0 func = .ok (readFrame (func.setWidth 8)) :=
  (if_pos rfl).trans (buildRead_ok hf)

/-- WRITE takes as many bytes of PBUF as LEN says (R126). -/
theorem requestOf_write_ok {len : BitVec 12} {func : BitVec 16} (s : State) (hf : func.toNat ≤ 255)
    (hlen : len.toNat ≤ 254) :
    requestOf (.write len func) s = .ok (writeFrame (func.setWidth 8) (s.load .pbuf len.toNat)) := by
  have hload : (s.load .pbuf len.toNat).length ≤ 254 := by rwa [State.load_length]
  rw [requestOf, requestWrite, if_neg (by omega), if_neg (by omega), buildWrite_ok hf hload]

theorem requestGetPower_ok (cfg : Cfg) : requestGetPower cfg 0 0 = .ok (readFrame cfg.funcPower) :=
  if_pos ⟨rfl, rfl⟩

theorem requestGetInput_ok (cfg : Cfg) : requestGetInput cfg 0 0 = .ok (readFrame cfg.funcInput) :=
  if_pos ⟨rfl, rfl⟩

theorem requestSetPower_ok {cfg : Cfg} {arg : BitVec 16} (ha : arg.toNat ≤ 1) :
    requestSetPower cfg 0 arg = .ok (writeFrame cfg.funcPower [arg.setWidth 8]) :=
  if_pos ⟨rfl, ha⟩

theorem requestSetPicture_ok {cfg : Cfg} {arg : BitVec 16} {m : PictureMode}
    (hm : PictureMode.all[arg.toNat]? = some m) :
    requestSetPicture cfg 0 arg = .ok (writeFrame cfg.funcPicture [cfg.subcmdDirect, cfg.picCode m]) := by
  rw [requestSetPicture, if_pos rfl, pictureOfIndex, hm]

theorem requestSetInput_ok {cfg : Cfg} {arg : BitVec 16} {m : InputMode}
    (hm : InputMode.all[arg.toNat]? = some m) :
    requestSetInput cfg 0 arg = .ok (writeFrame cfg.funcInput (inputPayload (cfg.inpCode m))) := by
  rw [requestSetInput, if_pos rfl, inputOfIndex, hm]

theorem exists_pictureMode {n : Nat} (hn : n ≤ 7) : ∃ m, PictureMode.all[n]? = some m :=
  ⟨_, List.getElem?_eq_getElem (show n < 8 by omega)⟩

theorem exists_inputMode {n : Nat} (hn : n ≤ 12) : ∃ m, InputMode.all[n]? = some m :=
  ⟨_, List.getElem?_eq_getElem (show n < 13 by omega)⟩

/-- Settles O9: a legal function number is the byte the request reads. -/
theorem readLaunchesReadRequest : Obligations.ReadLaunchesReadRequest := fun func _ hf hp =>
  exec_launches_read (i := .read 0 func) hp (requestRead_ok hf)

/-- Settles O10: within both bounds the request is a write of the loaded bytes. -/
theorem writeLaunchesPbufPayload : Obligations.WriteLaunchesPbufPayload := fun len func s hlen hf hp =>
  exec_launches_write (i := .write len func) hp (by rwa [State.load_length]) (requestOf_write_ok s hf hlen)

/-- Settles O11: both fields are 0, so the request is a read of the power function. -/
theorem getPowerLaunchesReadRequest : Obligations.GetPowerLaunchesReadRequest := fun _ hp =>
  exec_launches_read (i := .getPower 0 0) hp (requestGetPower_ok _)

/-- Settles O12: a write of the one argument byte. -/
theorem setPowerLaunchesWriteRequest : Obligations.SetPowerLaunchesWriteRequest := by
  intro arg s ha hp
  rw [← writeFrame_one]
  exact exec_launches_write (i := .setPower 0 arg) hp (by simp) (requestSetPower_ok ha)

/-- Settles O13: a write of the direct-selection byte and the mode's code. -/
theorem setPictureLaunchesDirectSelection : Obligations.SetPictureLaunchesDirectSelection := by
  intro arg s ha hp
  obtain ⟨m, hm⟩ := exists_pictureMode ha
  obtain ⟨t, hx, hlaunch⟩ :=
    exec_launches_write (i := .setPicture 0 arg) hp (by simp) (requestSetPicture_ok hm)
  rw [writeFrame_two] at hlaunch
  exact ⟨m, t, hm, hx, hlaunch⟩

/-- Settles O14: both fields are 0, so the request is a read of the input function. -/
theorem getInputLaunchesReadRequest : Obligations.GetInputLaunchesReadRequest := fun _ hp =>
  exec_launches_read (i := .getInput 0 0) hp (requestGetInput_ok _)

/-- Settles O15: a write of the code's two nibbles (R87). -/
theorem setInputLaunchesNibbles : Obligations.SetInputLaunchesNibbles := by
  intro arg s ha hp
  obtain ⟨m, hm⟩ := exists_inputMode ha
  obtain ⟨hhi, hlo⟩ := inputPayload_toNat (Config.cfg.inpCode m)
  obtain ⟨t, hx, hlaunch⟩ :=
    exec_launches_write (i := .setInput 0 arg) hp (by simp [inputPayload]) (requestSetInput_ok hm)
  rw [inputPayload, writeFrame_two] at hlaunch
  exact ⟨m, _, _, t, hm, hhi, hlo, hx, hlaunch⟩

/-! ### Refused requests (R79, R158) -/

section
variable {cfg : Cfg} {len : BitVec 12} {arg func : BitVec 16}

theorem requestRead_illegal (h : len ≠ 0) : requestRead len func = illegalArg := if_neg h

theorem requestGetPower_illegal (h : len ≠ 0 ∨ arg ≠ 0) : requestGetPower cfg len arg = illegalArg :=
  if_neg (by rwa [not_and_or])

theorem requestSetPower_illegal (h : len ≠ 0 ∨ 1 < arg.toNat) :
    requestSetPower cfg len arg = illegalArg :=
  if_neg (by rwa [not_and_or, not_le])

theorem requestSetPicture_illegal (h : len ≠ 0 ∨ 7 < arg.toNat) :
    requestSetPicture cfg len arg = illegalArg := by
  by_cases hlen : len = 0
  · have harg : PictureMode.all.length ≤ arg.toNat := h.resolve_left (not_not.mpr hlen)
    rw [requestSetPicture, if_pos hlen, pictureOfIndex, List.getElem?_eq_none harg]
  · exact if_neg hlen

theorem requestGetInput_illegal (h : len ≠ 0 ∨ arg ≠ 0) : requestGetInput cfg len arg = illegalArg :=
  if_neg (by rwa [not_and_or])

theorem requestSetInput_illegal (h : len ≠ 0 ∨ 12 < arg.toNat) :
    requestSetInput cfg len arg = illegalArg := by
  by_cases hlen : len = 0
  · have harg : InputMode.all.length ≤ arg.toNat := h.resolve_left (not_not.mpr hlen)
    rw [requestSetInput, if_pos hlen, inputOfIndex, List.getElem?_eq_none harg]
  · exact if_neg hlen

theorem requestRead_encRange (h : 255 < func.toNat) : requestRead 0 func = .error ⟨.encRange, 0⟩ :=
  (if_pos rfl).trans (buildRead_encRange h)

theorem requestOf_write_encRange (s : State) (h : 255 < func.toNat) :
    requestOf (.write len func) s = .error ⟨.encRange, 0⟩ :=
  if_pos h

theorem requestOf_write_encSize (s : State) (hf : func.toNat ≤ 255) (h : 254 < len.toNat) :
    requestOf (.write len func) s = .error ⟨.encSize, 0⟩ := by
  rw [requestOf, requestWrite, if_neg (by omega), if_pos h]

end

/-- Settles O16: each operation's legality test fails, and the accept step ends with its error. -/
theorem illegalFieldsRefusedAtAccept : Obligations.IllegalFieldsRefusedAtAccept := fun len arg _ hp =>
  ⟨fun h => exec_refused (i := .read len arg) hp (requestRead_illegal h),
    fun h => exec_refused (i := .getPower len arg) hp (requestGetPower_illegal h),
    fun h => exec_refused (i := .setPower len arg) hp (requestSetPower_illegal h),
    fun h => exec_refused (i := .setPicture len arg) hp (requestSetPicture_illegal h),
    fun h => exec_refused (i := .getInput len arg) hp (requestGetInput_illegal h),
    fun h => exec_refused (i := .setInput len arg) hp (requestSetInput_illegal h)⟩

/-- Settles O17: the range test comes before the size test in both requests. -/
theorem rangeTestedBeforeSize : Obligations.RangeTestedBeforeSize := fun len func s hp =>
  ⟨fun h => exec_refused (i := .read 0 func) hp (requestRead_encRange h),
    fun h => exec_refused (i := .write len func) hp (requestOf_write_encRange s h),
    fun hf h => exec_refused (i := .write len func) hp (requestOf_write_encSize s hf h)⟩

end Sys2Proof.Machine
end

section
/-! PROOFS. What the parsers refuse, one equation per error (R105 to R108), a changed byte of a response
(R111), and the input code through its two payload bytes (R87); with them O36, O37 and O38. -/

namespace Sys2Proof.Machine

/-! ### The answer byte (R83, R105) -/

/-- A nonzero answer byte raises the error of its device status and carries the byte. -/
theorem answerCheck_error {a : Byte} (ha : a ≠ 0) :
    ∃ e : Error, e.code = deviceStatus a ∧ answerCheck a = .error ⟨e, a⟩ := by
  unfold answerCheck deviceStatus
  rw [if_neg ha]
  split_ifs
  · exact ⟨.devLimitOver, rfl, rfl⟩
  · exact ⟨.devLimitUnder, rfl, rfl⟩
  · exact ⟨.devCanceled, rfl, rfl⟩
  · exact ⟨.devParse, rfl, rfl⟩
  · exact ⟨.devUnrecognized, rfl, rfl⟩

/-! ### The read header (R106) -/

theorem parseReadHdr_frameLength {r : List Byte} (hl : r.length < 3) :
    parseReadHdr r = .error ⟨.frameLength, BitVec.ofNat 8 r.length⟩ := by
  unfold parseReadHdr
  split
  · simp at hl
  · rfl

theorem parseReadHdr_frameHeader {h : Byte} (hh : h ≠ 0x70) (a l : Byte) :
    parseReadHdr [h, a, l] = .error ⟨.frameHeader, h⟩ :=
  if_pos hh

/-- A nonzero answer is refused whatever the third byte is (R109). -/
theorem parseReadHdr_answer {a : Byte} (ha : a ≠ 0) (l : Byte) :
    ∃ e : Error, e.code = deviceStatus a ∧ parseReadHdr [0x70, a, l] = .error ⟨e, a⟩ := by
  obtain ⟨e, hcode, hanswer⟩ := answerCheck_error ha
  refine ⟨e, hcode, ?_⟩
  simp only [parseReadHdr, hdrResp, hanswer, ne_eq, not_true_eq_false, if_false]

/-! ### The acknowledgement (R108) -/

theorem parseAck_frameLength {r : List Byte} (hl : r.length < 3) :
    parseAck r = .error ⟨.frameLength, BitVec.ofNat 8 r.length⟩ := by
  unfold parseAck
  split
  · simp at hl
  · rfl

theorem parseAck_frameHeader {h : Byte} (hh : h ≠ 0x70) (a c : Byte) :
    parseAck [h, a, c] = .error ⟨.frameHeader, h⟩ :=
  if_pos hh

theorem checksum_ack (a : Byte) : checksum [0x70, a] = 0x70 + a := by
  rw [checksum_cons, checksum_singleton]

/-- Behind the header byte an acknowledgement is judged by its checksum, then by its answer. -/
theorem parseAck_of_header (a c : Byte) :
    parseAck [0x70, a, c] = if 0x70 + a ≠ c then .error ⟨.checksum, c⟩ else answerCheck a := by
  have hheader : ¬ ((0x70 : Byte) ≠ hdrResp) := not_not.mpr rfl
  rw [parseAck, if_neg hheader, checksum_ack]

theorem parseAck_checksum {a c : Byte} (hc : c ≠ 0x70 + a) :
    parseAck [0x70, a, c] = .error ⟨.checksum, c⟩ := by
  rw [parseAck_of_header, if_pos hc.symm]

theorem parseAck_answer {a : Byte} (ha : a ≠ 0) :
    ∃ e : Error, e.code = deviceStatus a ∧ parseAck [0x70, a, 0x70 + a] = .error ⟨e, a⟩ := by
  rw [parseAck_of_header, if_neg (not_not.mpr rfl)]
  exact answerCheck_error ha

theorem ackFrame_eq (a : Byte) : ackFrame a = [0x70, a, 0x70 + a] := by
  rw [← checksum_ack]
  rfl

/-- Settles O36: the three positions of an acknowledgement, each against the test that reads it. -/
theorem changedAcknowledgementRefused : Obligations.ChangedAcknowledgementRefused := by
  intro a b
  rw [ackFrame_eq]
  refine ⟨fun hb => parseAck_frameHeader hb _ _, fun hb => parseAck_checksum ?_, fun hb => parseAck_checksum hb⟩
  exact fun heq => hb (add_left_cancel heq).symm

/-! ### The segment (R107) -/

section
variable {h q seg : List Byte} {c : Byte}

theorem parseReadBody_frameLength (hl : seg.length ≠ (h.getD 2 0).toNat) :
    parseReadBody h seg = .error ⟨.frameLength, BitVec.ofNat 8 seg.length⟩ :=
  if_pos hl

theorem parseReadBody_checksum (hl : (h.getD 2 0).toNat = q.length + 1) (hc : checksum (h ++ q) ≠ c) :
    parseReadBody h (q ++ [c]) = .error ⟨.checksum, c⟩ := by
  have hpred : (h.getD 2 0).toNat - 1 = q.length := by omega
  have hlast : (q ++ [c]).getD q.length 0 = c := by simp
  have hlen : (q ++ [c]).length = (h.getD 2 0).toNat := by rw [hl, List.length_append, List.length_singleton]
  simp only [parseReadBody, hpred, List.take_left, hlast]
  rw [if_neg (not_not.mpr hlen), if_pos hc]

theorem parseReadBody_ok (hl : (h.getD 2 0).toNat = q.length + 1) :
    parseReadBody h (q ++ [checksum (h ++ q)]) = .ok q :=
  (parseReadBody_ok_iff h _ q (by omega)).mpr ⟨hl.symm, rfl⟩

/-- A segment of the declared length is judged by its checksum alone. -/
theorem parseReadBody_of_length (hl : (h.getD 2 0).toNat = q.length + 1) :
    parseReadBody h (q ++ [c]) = if checksum (h ++ q) = c then .ok q else .error ⟨.checksum, c⟩ := by
  split_ifs with hc
  · rw [← hc]
    exact parseReadBody_ok hl
  · exact parseReadBody_checksum hl hc

end

/-! ### One changed byte of a read response (R111) -/

section
variable {p : List Byte} {b : Byte}

theorem responseHeader_length_toNat (hp : p.length ≤ 254) :
    ((responseHeader p).getD 2 0).toNat = p.length + 1 :=
  lengthField_toNat hp

theorem responseSegment_length (p : List Byte) : (responseSegment p).length = p.length + 1 := by
  rw [responseSegment, List.length_append, List.length_singleton]

/-- A changed payload byte changes the sum and not the checksum received. -/
theorem parseReadBody_payload_changed (hp : p.length ≤ 254) {j : Nat} (hj : j < p.length)
    (hb : p[j]? ≠ some b) :
    parseReadBody (responseHeader p) ((responseSegment p).set j b) =
      .error ⟨.checksum, checksum (responseHeader p ++ p)⟩ := by
  have hne : b ≠ p[j] := fun heq => hb (by rw [heq, List.getElem?_eq_getElem hj])
  have hsum : checksum (responseHeader p ++ p.set j b) ≠ checksum (responseHeader p ++ p) := by
    rw [checksum_append, checksum_append]
    exact fun heq => checksum_set_ne hj hne (add_left_cancel heq)
  have hlen : ((responseHeader p).getD 2 0).toNat = (p.set j b).length + 1 := by
    rw [List.length_set, responseHeader_length_toNat hp]
  rw [responseSegment, List.set_append_left _ _ hj]
  exact parseReadBody_checksum hlen hsum

theorem parseReadBody_checksum_changed (hp : p.length ≤ 254) (hb : b ≠ checksum (responseHeader p ++ p)) :
    parseReadBody (responseHeader p) ((responseSegment p).set p.length b) = .error ⟨.checksum, b⟩ := by
  rw [responseSegment, List.set_append_right _ _ (le_refl _), Nat.sub_self, List.set_cons_zero]
  exact parseReadBody_checksum (responseHeader_length_toNat hp) hb.symm

theorem parseReadBody_length_raised (hb : p.length + 1 < b.toNat) :
    parseReadBody ((responseHeader p).set 2 b) (responseSegment p) =
      .error ⟨.frameLength, BitVec.ofNat 8 (p.length + 1)⟩ := by
  have hdeclared : ((responseHeader p).set 2 b).getD 2 0 = b := rfl
  rw [parseReadBody_frameLength (by rw [responseSegment_length, hdeclared]; omega), responseSegment_length]

/-- A lowered length byte cuts the segment short, and the sum over what is left decides (C10). -/
theorem parseReadBody_length_lowered {q : List Byte} {c : Byte} (hb : b.toNat < p.length + 1)
    (hshort : q ++ [c] = (responseSegment p).take b.toNat) :
    parseReadBody ((responseHeader p).set 2 b) (q ++ [c]) =
      if checksum ([0x70, 0x00, b] ++ q) = c then .ok q else .error ⟨.checksum, c⟩ := by
  have hlen : b.toNat = q.length + 1 := by
    have hcount := congrArg List.length hshort
    rw [List.length_append, List.length_singleton, List.length_take, responseSegment_length] at hcount
    omega
  exact parseReadBody_of_length (h := [0x70, 0x00, b]) hlen

end

/-- Settles O37: each position of the response against the test that reads it, and the spec's two examples. -/
theorem changedReadResponseRefused : Obligations.ChangedReadResponseRefused := by
  refine ⟨fun p b hp => ⟨fun hb => parseReadHdr_frameHeader hb _ _, fun hb => parseReadHdr_answer hb _,
    fun j hj hb => parseReadBody_payload_changed hp hj hb, parseReadBody_checksum_changed hp,
    parseReadBody_length_raised, ?_⟩, rfl, rfl⟩
  rintro short hshort - hb q c rfl
  exact parseReadBody_length_lowered hb hshort

/-! ### The input code (R87, R142) -/

/-- Two received bytes whose low nibbles spell `c`. -/
theorem inputCodeOf_eq {b0 b1 c : Byte} (h : c.toNat = b0.toNat % 16 * 16 + b1.toNat % 16) :
    inputCodeOf b0 b1 = c :=
  BitVec.eq_of_toNat_eq ((inputCodeOf_toNat b0 b1).trans h.symm)

/-- Two bytes that spell a mode's code decode to that mode's index (R142). -/
theorem inputOf_code {cfg : Cfg} (hcfg : cfg.Legal) {n : Nat} {m : InputMode}
    (hm : InputMode.all[n]? = some m) {b0 b1 : Byte} (hcode : inputCodeOf b0 b1 = cfg.inpCode m) :
    inputOf cfg [b0, b1] = .ok (BitVec.ofNat 8 n, cfg.inpCode m) := by
  simp only [inputOf, hcode, inputOfCode_of_code hcfg, inputIndex_eq hm]

/-- Settles O38: the two nibbles SET_INPUT sends spell the code again. -/
theorem inputDecodeInvertsEncode : Obligations.InputDecodeInvertsEncode := by
  intro cfg n m hcfg hm
  obtain ⟨hhi, hlo⟩ := inputPayload_toNat (cfg.inpCode m)
  have hbyte : (cfg.inpCode m).toNat < 256 := (cfg.inpCode m).isLt
  exact inputOf_code hcfg hm (inputCodeOf_eq (by rw [hhi, hlo]; omega))

end Sys2Proof.Machine
end

section
/-! PROOFS. The receive steps (R122, R123): one equation per answer of the transport and verdict of the
parser, what each kind of response comes to, and a transport that fails or does not answer; with them O19 to
O24. -/

namespace Sys2Proof.Machine

/-- A read that ended in error entry took its bytes off the RX stream and wrote the outcome (R57, R160). -/
theorem State.enterError_consume (n : Nat) (e : Error) (info : Byte) (s : State) :
    (s.consume n).enterError ⟨e, info⟩ = s.failedRead n e.code info := rfl

/-! ### The steps by answer and verdict -/

section
variable {s : State} {k : Nat}

theorem rxHeaderStep_fail (ha : s.answer = some (.fail k)) :
    rxHeaderStep s = s.failedRead (min 3 k) 0x22 0 := by
  rw [rxHeaderStep, xportRead, ha]
  rfl

theorem rxHeaderStep_error {e : Error} {info : Byte} (ha : s.answer = some (.ok k))
    (hparse : parseReadHdr (s.rxStream.take (min 3 k)) = .error ⟨e, info⟩) :
    rxHeaderStep s = s.failedRead (min 3 k) e.code info := by
  simp only [rxHeaderStep, xportRead, ha, hparse, State.enterError_consume]

theorem rxHeaderStep_ok {l : Byte} (ha : s.answer = some (.ok k))
    (hparse : parseReadHdr (s.rxStream.take (min 3 k)) = .ok l) :
    rxHeaderStep s = (s.consume (min 3 k)).latchHeader (s.rxStream.take (min 3 k)) := by
  simp only [rxHeaderStep, xportRead, ha, hparse]

theorem rxAckStep_fail (ha : s.answer = some (.fail k)) :
    rxAckStep s = s.failedRead (min 3 k) 0x22 0 := by
  rw [rxAckStep, xportRead, ha]
  rfl

theorem rxAckStep_error {e : Error} {info : Byte} (ha : s.answer = some (.ok k))
    (hparse : parseAck (s.rxStream.take (min 3 k)) = .error ⟨e, info⟩) :
    rxAckStep s = s.failedRead (min 3 k) e.code info := by
  simp only [rxAckStep, xportRead, ha, hparse, State.enterError_consume]

theorem rxAckStep_ok (ha : s.answer = some (.ok k))
    (hparse : parseAck (s.rxStream.take (min 3 k)) = .ok ()) :
    rxAckStep s = (s.consume (min 3 k)).completeOk := by
  simp only [rxAckStep, xportRead, ha, hparse]

variable {dec : List Byte → State → Except Raise State}

/-- A declared length of 0 is refused without a transport call (R123). -/
theorem rxBodyStep_zero (h0 : s.byteAt .hdr 2 = 0) : rxBodyStep dec s = s.failedRead 0 0x33 0 :=
  if_pos h0

theorem rxBodyStep_fail (h0 : s.byteAt .hdr 2 ≠ 0) (ha : s.answer = some (.fail k)) :
    rxBodyStep dec s = s.failedRead (min (s.byteAt .hdr 2).toNat k) 0x22 0 := by
  rw [rxBodyStep, if_neg h0, xportRead, ha]
  rfl

theorem rxBodyStep_error {e : Error} {info : Byte} (h0 : s.byteAt .hdr 2 ≠ 0)
    (ha : s.answer = some (.ok k))
    (hparse : parseReadBody s.header (s.rxStream.take (min (s.byteAt .hdr 2).toNat k)) =
      .error ⟨e, info⟩) :
    rxBodyStep dec s = s.failedRead (min (s.byteAt .hdr 2).toNat k) e.code info := by
  have hheader : (s.consume (min (s.byteAt .hdr 2).toNat k)).header = s.header := rfl
  rw [rxBodyStep, if_neg h0]
  simp only [xportRead, ha, hheader, hparse, State.enterError_consume]

end

/-- Settles O19: in either receive phase the call's failure ends the operation. -/
theorem failedReadEndsOperation : Obligations.FailedReadEndsOperation := by
  intro i s k ha
  refine ⟨fun hp => ?_, fun hp hread h0 => ?_⟩
  · cases hread : isReadType i with
    | true => rw [exec_rxhdr_read i hread hp, rxHeaderStep_fail ha]
    | false => rw [exec_rxhdr_write i hread hp, rxAckStep_fail ha]
  · rw [exec_rxbody_read i hread hp, rxBodyStep_fail h0 ha]

/-! ### A transport that does not answer (R189) -/

/-- A turn without an answer leaves a waiting operation where it is; only the schedule moves on. -/
theorem step_unanswered {s : State} {rest : List Input} (h : BlockInv s) (hr : s.rst = false)
    (ha : s.answer = none) (hi : s.inputs = .turn none :: rest) (hp : s.phase ≠ .idle)
    (hbody : s.phase = .rxbody → s.byteAt .hdr 2 ≠ 0) : step s = .next (s.withInputs rest) := by
  obtain ⟨i, hf⟩ := decodeFields_of_operation (h.busy_opl hp).2 (lenField s.cmd) (argField s.cmd)
  have hwaiting : (s.withInputs rest).offer none = s.withInputs rest := by
    rw [State.offer, ← ha]
    rfl
  rw [step_turn hr hp hi hf, hwaiting]
  obtain ⟨t, ht⟩ := (h.of_env (t := s.withInputs rest) rfl).exec_next hp (decodeFields_ok hf).1.symm
  rw [ht]
  rcases exec_unanswered i (s := s.withInputs rest) hp ha ht with rfl | ⟨hrx, hzero, -⟩
  · rfl
  · exact absurd hzero (hbody hrx)

/-- Settles O20, by induction on the number of turns. -/
theorem neverAnsweredNeverCompletes : Obligations.NeverAnsweredNeverCompletes := by
  intro n
  induction n with
  | zero =>
    intro s _ _ _ hi _
    rw [run_zero, ← show s.inputs = [] from hi]
  | succ n ih =>
    intro s h hr ha hi hwait
    have hp : s.phase ≠ .idle := by rcases hwait with hw | hw | ⟨hw, -⟩ <;> rw [hw] <;> simp
    have hbody : s.phase = .rxbody → s.byteAt .hdr 2 ≠ 0 := by
      intro hrx
      rcases hwait with hw | hw | ⟨-, hlen⟩
      · rw [hrx] at hw; cases hw
      · rw [hrx] at hw; cases hw
      · exact hlen
    rw [run_succ n (step_unanswered h hr ha hi hp hbody)]
    exact ih _ (h.of_env rfl) hr ha rfl hwait

/-! ### The three bytes of a response -/

section
variable {s : State} {k : Nat}

/-- With enough offered, a read of three takes the first three bytes that have arrived. -/
theorem take_three {a b c : Byte} {rest : List Byte} (hk : 3 ≤ k)
    (hrx : s.rxStream = [a, b, c] ++ rest) : s.rxStream.take (min 3 k) = [a, b, c] := by
  rw [Nat.min_eq_left hk, hrx]
  rfl

theorem drop_three {a b c : Byte} {rest : List Byte} (hrx : s.rxStream = [a, b, c] ++ rest) :
    s.rxStream.drop 3 = rest := by
  rw [hrx]
  rfl

/-- A read of three that returned three bytes consumed three. -/
theorem min_three_of_take {r : List Byte} {a b c : Byte} (h : r.take (min 3 k) = [a, b, c]) :
    min 3 k = 3 := by
  have hlen := congrArg List.length h
  rw [List.length_take, List.length_cons, List.length_cons, List.length_singleton] at hlen
  omega

/-- The acknowledgement `70 00 70` completes the operation and three bytes are consumed (R108, R122). -/
theorem rxAckStep_acknowledged {rest : List Byte} (ha : s.answer = some (.ok k)) (hk : 3 ≤ k)
    (hrx : s.rxStream = [0x70, 0x00, 0x70] ++ rest) : rxAckStep s = (s.consume 3).completeOk := by
  have hparse : parseAck (s.rxStream.take (min 3 k)) = .ok () := by
    rw [take_three hk hrx]
    exact (parseAck_ok_iff _).mpr rfl
  rw [rxAckStep_ok ha hparse, Nat.min_eq_left hk]

/-- The header `70 00 L` is latched and three bytes are consumed (R106, R122). -/
theorem rxHeaderStep_accepted {l : Byte} {rest : List Byte} (ha : s.answer = some (.ok k)) (hk : 3 ≤ k)
    (hrx : s.rxStream = [0x70, 0x00, l] ++ rest) :
    rxHeaderStep s = (s.consume 3).latchHeader [0x70, 0x00, l] := by
  have htake := take_three hk hrx
  have hparse : parseReadHdr (s.rxStream.take (min 3 k)) = .ok l := by
    rw [htake]
    exact (parseReadHdr_ok_iff _ _).mpr rfl
  rw [rxHeaderStep_ok ha hparse, htake, Nat.min_eq_left hk]

end

/-- Settles O21: the parser accepts these three bytes and they are consumed. -/
theorem acknowledgementCompletesWrites : Obligations.AcknowledgementCompletesWrites := by
  intro i s k rest hwrite hp ha hk hrx
  rw [exec_rxhdr_write i hwrite hp, rxAckStep_acknowledged ha hk hrx, ← drop_three hrx]
  rfl

/-- Settles O22: each clause is one refusal of `PARSE_ACK`. -/
theorem acknowledgementErrorsInOrder : Obligations.AcknowledgementErrorsInOrder := by
  intro i s k hwrite hp ha
  rw [exec_rxhdr_write i hwrite hp]
  refine ⟨fun hshort => ?_, fun h a c htake => ⟨fun hh => ?_, ?_, ?_⟩⟩
  · rw [rxAckStep_error ha (parseAck_frameLength hshort)]
    rfl
  · rw [rxAckStep_error ha (by rw [htake]; exact parseAck_frameHeader hh a c), min_three_of_take htake]
    rfl
  · rintro rfl hc
    rw [rxAckStep_error ha (by rw [htake]; exact parseAck_checksum hc), min_three_of_take htake]
    rfl
  · rintro rfl rfl ha0
    obtain ⟨e, hcode, hparse⟩ := parseAck_answer ha0
    rw [rxAckStep_error ha (by rw [htake]; exact hparse), min_three_of_take htake, hcode]

/-- Settles O23: the accepted header is what HDR reads back. -/
theorem acceptedHeaderIsLatched : Obligations.AcceptedHeaderIsLatched := by
  intro i s k l rest hread hp ha hk hrx
  refine ⟨(s.consume 3).latchHeader [0x70, 0x00, l], ?_, State.header_latchHeader _ _ rfl, fun j hj => ?_, ?_⟩
  · rw [exec_rxhdr_read i hread hp, rxHeaderStep_accepted ha hk hrx]
  · simp only [State.byteAt, State.latchHeader_hdr, State.latchHeader_resets, State.consume_hdr,
      State.consume_resets]
    rw [Memory.read_writeBytes_outside _ _ _ _ (.inr hj)]
  · rw [← drop_three hrx]
    rfl

/-- Settles O24: each clause is one refusal of `PARSE_READ_HDR`. -/
theorem readHeaderErrorsInOrder : Obligations.ReadHeaderErrorsInOrder := by
  intro i s k hread hp ha
  rw [exec_rxhdr_read i hread hp]
  refine ⟨fun hshort => ?_, fun h a c htake => ⟨fun hh => ?_, ?_⟩⟩
  · rw [rxHeaderStep_error ha (parseReadHdr_frameLength hshort)]
    rfl
  · rw [rxHeaderStep_error ha (by rw [htake]; exact parseReadHdr_frameHeader hh a c), min_three_of_take htake]
    rfl
  · rintro rfl ha0
    obtain ⟨e, hcode, hparse⟩ := parseReadHdr_answer ha0 c
    rw [rxHeaderStep_error ha (by rw [htake]; exact hparse), min_three_of_take htake, hcode]

end Sys2Proof.Machine
end

section
/-! PROOFS. The RXBODY step (R123): what a valid segment comes to when DECODE accepts its payload and when it
raises, what each DECODE answers, and the segments that are refused; with them O25 to O30. -/

namespace Sys2Proof.Machine

/-! ### A valid segment (R107, R123) -/

section
variable {i : Instr} {s : State} {k : Nat} {p rest : List Byte}

/-- After a segment of payload, checksum and more, what is left is the rest. -/
theorem drop_segment {c : Byte} (hrx : s.rxStream = p ++ [c] ++ rest) :
    s.rxStream.drop (p.length + 1) = rest := by
  rw [hrx, List.drop_left' (by rw [List.length_append, List.length_singleton])]

/-- A valid segment whose payload DECODE accepts completes the operation with the values DECODE wrote (R124).
-/
theorem exec_segment_ok (hread : isReadType i = true) (hp : s.phase = .rxbody)
    (ha : s.answer = some (.ok k)) (hl : (s.byteAt .hdr 2).toNat = p.length + 1) (hk : p.length + 1 ≤ k)
    (hrx : s.rxStream = p ++ [checksum (s.header ++ p)] ++ rest) {r v : Byte}
    (hdec : decodeOf i p ((s.consume (p.length + 1)).storePayload p) =
      .ok (((s.consume (p.length + 1)).storePayload p).setResultInfo r v)) :
    ∃ t, exec i s = .next t ∧ StoresPayload s t p ∧
      t = { s with
        answer := none, rxStream := rest, mem := t.mem, rlen := BitVec.ofNat 8 p.length
        result := r, info := v, status := 0, done := true, phase := .idle } := by
  refine ⟨(((s.consume (p.length + 1)).storePayload p).setResultInfo r v).completeOk, ?_,
    storesPayload_of_mem rfl rfl, ?_⟩
  · rw [exec_rxbody_read i hread hp, rxBodyStep_segment hl ha hk hrx, hdec]
  · rw [← drop_segment hrx]
    rfl

/-- A valid segment whose payload DECODE refuses ends the operation with its error; the payload stays (R25,
R156). -/
theorem exec_segment_error (hread : isReadType i = true) (hp : s.phase = .rxbody)
    (ha : s.answer = some (.ok k)) (hl : (s.byteAt .hdr 2).toNat = p.length + 1) (hk : p.length + 1 ≤ k)
    (hrx : s.rxStream = p ++ [checksum (s.header ++ p)] ++ rest) {e : Error} {v : Byte}
    (hdec : decodeOf i p ((s.consume (p.length + 1)).storePayload p) = .error ⟨e, v⟩) :
    ∃ t, exec i s = .next t ∧ StoresPayload s t p ∧
      t = { s with
        answer := none, rxStream := rest, mem := t.mem, rlen := BitVec.ofNat 8 p.length
        status := e.code, info := v, done := true, phase := .idle } := by
  refine ⟨((s.consume (p.length + 1)).storePayload p).enterError ⟨e, v⟩, ?_,
    storesPayload_of_mem rfl rfl, ?_⟩
  · rw [exec_rxbody_read i hread hp, rxBodyStep_segment hl ha hk hrx, hdec]
  · rw [← drop_segment hrx]
    rfl

end

/-! ### What DECODE answers (R137, R142) -/

section
variable {len : BitVec 12} {arg : BitVec 16} {p : List Byte} {t : State}

theorem decodeOf_read {func : BitVec 16} :
    decodeOf (.read len func) p t = .ok (t.setResultInfo t.result t.info) := rfl

theorem decodeOf_getPower_ok {b : Byte} (hb : b = 0 ∨ b = 1) :
    decodeOf (.getPower len arg) [b] t = .ok (t.setResultInfo b t.info) := by
  rcases hb with rfl | rfl <;> rfl

theorem decodeOf_getPower_value {b : Byte} (h0 : b ≠ 0) (h1 : b ≠ 1) :
    decodeOf (.getPower len arg) [b] t = .error ⟨.decPowerValue, b⟩ := by
  simp only [decodeOf, decodePower, powerOf, if_neg h0, if_neg h1]

theorem decodeOf_getPower_length (hl : p.length ≠ 1) :
    decodeOf (.getPower len arg) p t = .error ⟨.decPayloadLen, BitVec.ofNat 8 p.length⟩ := by
  rcases powerOf_cases p with ⟨b, rfl, -⟩ | ⟨b, rfl, -⟩ | ⟨-, hpower⟩
  · exact absurd rfl hl
  · exact absurd rfl hl
  · simp only [decodeOf, decodePower, hpower]

theorem decodeOf_getInput_ok {n : Nat} {m : InputMode} {b0 b1 : Byte} (hm : InputMode.all[n]? = some m)
    (hcode : inputCodeOf b0 b1 = Config.cfg.inpCode m) :
    decodeOf (.getInput len arg) [b0, b1] t =
      .ok (t.setResultInfo (BitVec.ofNat 8 n) (Config.cfg.inpCode m)) := by
  simp only [decodeOf, decodeInput, inputOf_code config_legal hm hcode]

theorem decodeOf_getInput_code {b0 b1 : Byte} (hcode : ∀ m, Config.cfg.inpCode m ≠ inputCodeOf b0 b1) :
    decodeOf (.getInput len arg) [b0, b1] t = .error ⟨.decInputCode, inputCodeOf b0 b1⟩ := by
  simp only [decodeOf, decodeInput, inputOf, inputOfCode_none hcode]

theorem decodeOf_getInput_length (hl : p.length ≠ 2) :
    decodeOf (.getInput len arg) p t = .error ⟨.decPayloadLen, BitVec.ofNat 8 p.length⟩ := by
  rcases inputOf_cases Config.cfg p with ⟨b0, b1, m, rfl, -⟩ | ⟨b0, b1, rfl, -⟩ | ⟨-, hinput⟩
  · exact absurd rfl hl
  · exact absurd rfl hl
  · simp only [decodeOf, decodeInput, hinput]

end

/-- Settles O25: `DECODE(READ, p)` does nothing. -/
theorem readCompletesWithPayload : Obligations.ReadCompletesWithPayload :=
  fun len func _ _ _ _ hp ha hl hk hrx =>
    exec_segment_ok (i := .read len func) rfl hp ha hl hk hrx decodeOf_read

/-- Settles O26: DECODE accepts the two power states. -/
theorem getPowerCompletesWithState : Obligations.GetPowerCompletesWithState := by
  intro len arg s k b rest hp ha hhdr hk hrx hb
  have hl : (s.byteAt .hdr 2).toNat = [b].length + 1 := by rw [hhdr]; rfl
  exact exec_segment_ok (i := .getPower len arg) rfl hp ha hl hk hrx (decodeOf_getPower_ok hb)

/-- Settles O27: the low nibbles spell the mode's code, and DECODE finds its index. -/
theorem getInputCompletesWithIndex : Obligations.GetInputCompletesWithIndex := by
  intro len arg s k n m b0 b1 rest hp ha hhdr hk hrx hm hcode
  have hl : (s.byteAt .hdr 2).toNat = [b0, b1].length + 1 := by rw [hhdr]; rfl
  exact exec_segment_ok (i := .getInput len arg) rfl hp ha hl hk hrx
    (decodeOf_getInput_ok hm (inputCodeOf_eq hcode))

/-- Settles O28: DECODE tests the length before the value. -/
theorem getPowerDecodeErrors : Obligations.GetPowerDecodeErrors := by
  intro len arg s k p rest hp ha hl hk hrx
  refine ⟨fun hlen => ?_, ?_⟩
  · exact exec_segment_error (i := .getPower len arg) rfl hp ha hl hk hrx (decodeOf_getPower_length hlen)
  · rintro b rfl h0 h1
    exact exec_segment_error (i := .getPower len arg) rfl hp ha hl hk hrx (decodeOf_getPower_value h0 h1)

/-- Settles O29: a code no mode has is not in the closed table. -/
theorem getInputDecodeErrors : Obligations.GetInputDecodeErrors := by
  intro len arg s k p rest hp ha hl hk hrx
  refine ⟨fun hlen => ?_, ?_⟩
  · exact exec_segment_error (i := .getInput len arg) rfl hp ha hl hk hrx (decodeOf_getInput_length hlen)
  · rintro b0 b1 c rfl hcode hnone
    rw [← inputCodeOf_eq hcode] at hnone ⊢
    exact exec_segment_error (i := .getInput len arg) rfl hp ha hl hk hrx (decodeOf_getInput_code hnone)

/-! ### A refused segment -/

/-- Settles O30: the declared length, then the two tests of `PARSE_READ_BODY`. -/
theorem segmentErrorsInOrder : Obligations.SegmentErrorsInOrder := by
  intro i s hread hp
  rw [exec_rxbody_read i hread hp]
  refine ⟨fun h0 => by rw [rxBodyStep_zero h0], ?_⟩
  rintro k l r rfl hl ha hr
  have h0 : s.byteAt .hdr 2 ≠ 0 := fun hzero => hl (by rw [hzero]; rfl)
  have hdeclared : s.header.getD 2 0 = s.byteAt .hdr 2 := rfl
  refine ⟨fun hshort => ?_, ?_⟩
  · have hparse := parseReadBody_frameLength (h := s.header) (seg := r) (by rw [hdeclared]; omega)
    rw [hr] at hparse ⊢
    rw [rxBodyStep_error h0 ha hparse]
    rfl
  · rintro p c rfl hlen hsum
    have hparse := parseReadBody_checksum (h := s.header) (q := p) (c := c)
      (by rw [hdeclared, ← hlen, List.length_append, List.length_singleton]) hsum
    have htaken := congrArg List.length hr
    rw [List.length_take] at htaken
    rw [hr] at hparse
    rw [rxBodyStep_error h0 ha hparse, show min (s.byteAt .hdr 2).toNat k = (s.byteAt .hdr 2).toNat by omega]
    rfl

end Sys2Proof.Machine
end

section
/-! PROOFS. The host port (R20, R26, R29, R50 to R55): the address map region by region, what one byte read or
written at each place does, and what a step does at a host access; with them O39 to O44. -/

namespace Sys2Proof.Machine

/-! ### The step at a host access -/

section
variable {s : State} {a : BitVec 10} {rest : List Input}

theorem step_hostRead {n : Nat} (hi : s.inputs = .host (.read a n) :: rest) (h : ¬ turnedAway a.toNat n) :
    step s = .next ((hostReadBytes a.toNat n (s.withInputs rest)).2.withReadData
      (hostReadBytes a.toNat n (s.withInputs rest)).1) := by
  rw [step_cons hi, applyInput, hostAccess, hostRead_answered h]

theorem step_hostRead_one (hi : s.inputs = .host (.read a 1) :: rest) :
    step s = .next ((hostReadByte a.toNat (s.withInputs rest)).2.withReadData
      [(hostReadByte a.toNat (s.withInputs rest)).1]) :=
  step_hostRead hi fun hwide => absurd hwide.1 (lt_irrefl 1)

theorem step_hostWrite {bs : List Byte} (hr : s.rst = false) (hi : s.inputs = .host (.write a bs) :: rest)
    (hcmd : ¬ (a.toNat = 0x200 ∧ bs.length = 4)) (h : ¬ turnedAway a.toNat bs.length) :
    step s = .next (hostWriteBytes a.toNat bs (s.withInputs rest)) := by
  have hlow : (s.withInputs rest).rst = false := hr
  rw [step_cons hi, applyInput, hostAccess_write hlow hcmd, hostWrite_answered h]

theorem step_hostWrite_one {v : Byte} (hr : s.rst = false) (hi : s.inputs = .host (.write a [v]) :: rest) :
    step s = .next (hostWriteByte a.toNat v (s.withInputs rest)) :=
  step_hostWrite hr hi (fun hcmd => absurd hcmd.2 (by simp)) fun hwide => absurd hwide.1 (lt_irrefl 1)

end

/-! ### The address map (R50, R51) -/

section
variable {a : Nat}

theorem region_pbuf (h : a < 0x100) : region a = .pbuf a := if_pos h

theorem region_rbuf (h : 0x100 ≤ a) (h' : a < 0x1FE) : region a = .rbuf (a - 0x100) := by
  rw [region, if_neg (by omega), if_pos h']

theorem region_cmd (h : 0x200 ≤ a) (h' : a < 0x204) : region a = .cmd (a - 0x200) := by
  rw [region, if_neg (by omega), if_neg (by omega), if_neg (by omega), if_pos h']

theorem region_unmapped (h : a = 0x1FE ∨ a = 0x1FF ∨ 0x209 ≤ a) (h' : a < 0x400) :
    region a = .unmapped := by
  rcases h with rfl | rfl | h
  · rfl
  · rfl
  · rw [region, if_neg (by omega), if_neg (by omega), if_neg (by omega), if_neg (by omega), if_neg (by omega),
      if_neg (by omega), if_neg (by omega), if_neg (by omega), if_neg (by omega), if_pos h']

end

/-! ### One-byte reads (R20, R26, R29, R32, R54) -/

section
variable {a : Nat} {s : State}

theorem hostReadByte_pbuf (h : a < 0x100) : hostReadByte a s = (s.byteAt .pbuf a, s) := by
  rw [hostReadByte, region_pbuf h]

theorem hostReadByte_rbuf (h : 0x100 ≤ a) (h' : a < 0x1FE) (hvalid : a - 0x100 < s.rlen.toNat) :
    hostReadByte a s = (s.byteAt .rbuf (a - 0x100), s) := by
  rw [hostReadByte, region_rbuf h h']
  exact if_pos hvalid

theorem hostReadByte_unmapped (h : a = 0x1FE ∨ a = 0x1FF ∨ 0x209 ≤ a) (h' : a < 0x400) :
    hostReadByte a s = (0, s) := by
  rw [hostReadByte, region_unmapped h h']

theorem hostReadByte_cmd (h : 0x200 ≤ a) (h' : a < 0x204) :
    hostReadByte a s = (cmdByte s.cmd (a - 0x200), s) := by
  rw [hostReadByte, region_cmd h h']

/-- Byte `k` of CMD is the low byte of the register shifted down by `k` bytes (R54). -/
theorem cmdByte_eq (d : Descriptor) (k : Nat) : cmdByte d k = (d >>> (8 * k)).setWidth 8 := rfl

/-- FLAGS as a number: BUSY, DONE and CMD_OVR in bits 0, 1 and 2 (R26). -/
theorem State.flags_toNat (s : State) :
    s.flags.toNat =
      (if s.phase = .idle then 0 else 1) + (if s.done then 2 else 0) + (if s.cmdOvr then 4 else 0) := by
  rw [State.flags, toNat_append_eq_mul_add, toNat_append_eq_mul_add, toNat_append_eq_mul_add,
    BitVec.toNat_ofBool, BitVec.toNat_ofBool, BitVec.toNat_ofBool, State.busy]
  simp only [Bool.toNat, Bool.cond_eq_ite, decide_eq_true_eq, ite_not]
  split_ifs <;> rfl

end

/-- Settles O39: one case per place of the address map. -/
theorem hostReadsAddressMap : Obligations.HostReadsAddressMap := by
  intro s a rest hi v hv
  have hread : hostReadByte a.toNat (s.withInputs rest) = (v, s.withInputs rest) := by
    rcases hv with ⟨h, rfl⟩ | ⟨h, h', hvalid, rfl⟩ | ⟨h, rfl⟩ | ⟨h, h', rfl⟩ | ⟨h, rfl⟩ | ⟨h, rfl⟩ |
      ⟨h, rfl⟩ | ⟨h, rfl⟩ | ⟨h, hflags⟩
    · exact hostReadByte_pbuf h
    · exact hostReadByte_rbuf h h' hvalid
    · exact hostReadByte_unmapped h a.isLt
    · rw [hostReadByte_cmd h (by omega), cmdByte_eq]
      rfl
    · rw [h]; rfl
    · rw [h]; rfl
    · rw [h]; rfl
    · rw [h]; rfl
    · have hv : v = s.flags := BitVec.eq_of_toNat_eq (hflags.trans s.flags_toNat.symm)
      rw [h, hv]
      rfl
  rw [step_hostRead_one hi, hread]
  rfl

/-! ### Reads of CMD of any width (R54) -/

theorem littleEndian_getElem {k : Nat} (d : Descriptor) (hk : k < (littleEndian d).length) :
    (littleEndian d)[k] = cmdByte d k := by
  have hk' : k < 4 := hk
  interval_cases k <;> rfl

theorem hostReadBytes_cmd {s : State} {a n : Nat} (h : 0x200 ≤ a) (h' : a + n ≤ 0x204) :
    hostReadBytes a n s = (((littleEndian s.cmd).drop (a - 0x200)).take n, s) := by
  induction n generalizing a with
  | zero => rw [hostReadBytes, List.take_zero]
  | succ n ih =>
    have hk : a - 0x200 < (littleEndian s.cmd).length := show a - 0x200 < 4 by omega
    have hnext : a + 1 - 0x200 = a - 0x200 + 1 := by omega
    rw [hostReadBytes, hostReadByte_cmd h (by omega), ih (by omega) (by omega), hnext,
      List.drop_eq_getElem_cons hk, littleEndian_getElem, List.take_succ_cons]

/-- Settles O40: none of these addresses is turned away, and the bytes are those of the word. -/
theorem commandReadsLittleEndian : Obligations.CommandReadsLittleEndian := by
  intro s a n rest hi h h'
  rw [step_hostRead hi (by rw [turnedAway]; omega), hostReadBytes_cmd h h']
  rfl

/-- Settles O41: only an answered read leads on, and it draws free values and nothing else. -/
theorem hostReadsHaveNoSideEffect : Obligations.HostReadsHaveNoSideEffect := by
  intro s t a n rest hi hstep
  by_cases hwide : turnedAway a.toNat n
  · rw [step_cons hi, applyInput, hostAccess, hostRead_turnedAway hwide] at hstep
    cases hstep
  · rw [step_hostRead hi hwide] at hstep
    cases hstep
    obtain ⟨hlen, k, hframe⟩ := hostReadBytes_frame a.toNat n (s.withInputs rest)
    rw [hframe]
    exact ⟨rfl, hlen⟩

/-! ### Writes (R20, R26, R29, R51, R54) -/

section
variable {a : Nat} {s : State}

theorem hostWriteByte_pbuf (h : a < 0x100) (v : Byte) : hostWriteByte a v s = s.store .pbuf a [v] := by
  rw [hostWriteByte, region_pbuf h]

theorem hostWriteByte_ignored (h : 0x100 ≤ a) (h' : a ≠ 0x208) (v : Byte) : hostWriteByte a v s = s := by
  rcases hostWriteByte_cases a v s with ⟨hlow, -⟩ | ⟨hflags, -⟩ | ⟨-, -, hw⟩
  · omega
  · exact absurd hflags h'
  · exact hw

theorem hostWriteBytes_ignored {bs : List Byte} (h : 0x100 ≤ a) (h' : ∀ k < bs.length, a + k ≠ 0x208) :
    hostWriteBytes a bs s = s := by
  induction bs generalizing a with
  | nil => rfl
  | cons v vs ih =>
    rw [hostWriteBytes, hostWriteByte_ignored h (h' 0 (by simp)) v]
    refine ih (by omega) fun k hk => ?_
    have hne := h' (k + 1) (by simpa using hk)
    omega

end

/-- Settles O42: the one byte is stored in the host address space, which TX does not read. -/
theorem pbufWriteStoresByte : Obligations.PbufWriteStoresByte := by
  intro s a v rest hr hi ha
  refine ⟨(s.withInputs rest).store .pbuf a.toNat [v], ?_, ?_, fun j hj => ?_, rfl, rfl⟩
  · rw [step_hostWrite_one hr hi, hostWriteByte_pbuf ha]
  · simp only [State.byteAt, State.store_pbuf_mem, Memory.writeBytes, Memory.read_write_same,
      Option.getD_some]
  · exact Memory.read_write_other _ v hj

theorem and_not_eq_ite (b c : Bool) : (b && !c) = if c then false else b := by
  cases c
  · exact Bool.and_true b
  · exact Bool.and_false b

/-- Settles O43: the one byte falls on FLAGS, which clears by it. -/
theorem flagsWriteOneToClear : Obligations.FlagsWriteOneToClear := by
  intro s w rest hr hi
  rw [step_hostWrite_one hr hi, ← and_not_eq_ite, ← and_not_eq_ite]
  rfl

/-- Settles O44: no byte of either kind of write falls on PBUF or FLAGS, and neither is the command write. -/
theorem otherWritesIgnored : Obligations.OtherWritesIgnored := by
  rintro s a bs rest hr hi (⟨hl, ha, hne⟩ | ⟨hl, ha, hend⟩)
  · rw [step_hostWrite hr hi (by omega) (by rw [turnedAway]; omega),
      hostWriteBytes_ignored ha (fun k hk => by omega)]
  · rw [step_hostWrite hr hi (by omega) (by rw [turnedAway]; omega),
      hostWriteBytes_ignored (by omega) (fun k hk => by omega)]

end Sys2Proof.Machine
end

section
/-! PROOFS. Reset (R35, R180, R181): the state after it, its rise in any phase, and a block held under it;
with them O46, O47 and O48. -/

namespace Sys2Proof.Machine

/-- Settles O46: no buffer lists a byte. -/
theorem resetValues : Obligations.ResetValues := by
  refine ⟨rfl, rfl, rfl, rfl, rfl, rfl, rfl, rfl, rfl, fun b i => ?_⟩
  cases b <;> rfl

/-- Settles O47: the rise of `rst` writes every field but those of the link and the environment. -/
theorem resetAbandonsOperation : Obligations.ResetAbandonsOperation := by
  intro s sent rest hi
  rw [step_cons hi]
  rfl

/-! ### Under reset (R180) -/

section
variable {s : State}

theorem hostAccess_write_reset (hr : s.rst = true) (a : BitVec 10) (bs : List Byte) :
    hostAccess (.write a bs) s = .next s :=
  if_pos hr

theorem applyInput_turn_reset (hr : s.rst = true) (x : Option Answer) :
    applyInput (.turn x) s = .next s :=
  if_pos hr

/-- What the host can see of a block at its reset values (R35). -/
theorem State.atResetValues_visible (h : s.atResetValues = true) :
    s.cmd = 0 ∧ s.status = 0 ∧ s.info = 0 ∧ s.result = 0 ∧ s.rlen = 0 ∧ s.done = false ∧
      s.cmdOvr = false ∧ s.phase = .idle := by
  simp only [State.atResetValues, Bool.and_eq_true, decide_eq_true_eq, Bool.not_eq_true'] at h
  obtain ⟨⟨⟨⟨⟨⟨⟨⟨⟨⟨⟨⟨hcmd, hstatus⟩, hinfo⟩, hresult⟩, hrlen⟩, hdone⟩, hovr⟩, hphase⟩, -⟩, -⟩, -⟩, -⟩, -⟩ := h
  exact ⟨hcmd, hstatus, hinfo, hresult, hrlen, hdone, hovr, hphase⟩

/-- At its reset values every register above the buffers reads as 0. -/
theorem step_hostRead_reset {a : BitVec 10} {rest : List Input} (h : s.atResetValues = true)
    (ha : 0x1FE ≤ a.toNat) (hi : s.inputs = .host (.read a 1) :: rest) :
    step s = .next { s with inputs := rest, rdata := [0] } := by
  obtain ⟨hcmd, hstatus, hinfo, hresult, hrlen, hdone, hovr, hphase⟩ := State.atResetValues_visible h
  refine hostReadsAddressMap s a rest hi 0 ?_
  have hplace : (a.toNat = 0x1FE ∨ a.toNat = 0x1FF ∨ 0x209 ≤ a.toNat) ∨
      (0x200 ≤ a.toNat ∧ a.toNat ≤ 0x203) ∨ a.toNat = 0x204 ∨ a.toNat = 0x205 ∨ a.toNat = 0x206 ∨
      a.toNat = 0x207 ∨ a.toNat = 0x208 := by omega
  simpa [hcmd, hstatus, hinfo, hresult, hrlen, hdone, hovr, hphase] using .inr hplace

end

/-- Settles O48: writes and turns are ignored under reset, and reads find the values the invariant holds it
at. -/
theorem nothingMovesUnderReset : Obligations.NothingMovesUnderReset := by
  intro s rest hr
  have hhigh : (s.withInputs rest).rst = true := hr
  refine ⟨fun a bs hi => ?_, fun x hi => ?_, fun hi => ?_, fun a hinv ha hi => ?_⟩
  · rw [step_cons hi, applyInput, hostAccess_write_reset hhigh]
  · rw [step_cons hi, applyInput_turn_reset hhigh]
  · rcases step_eq s with ⟨-, hstep⟩ | ⟨e, l, hl, -⟩
    · rw [hstep, applyInput_turn_reset hr]
    · rw [hi] at hl
      cases hl
  · exact step_hostRead_reset (hinv.reset_held hr) ha hi

end Sys2Proof.Machine
end

section
/-! PROOFS. What one step can do to PHASE, the result registers, the streams and PBUF, said once per kind of
step; with them O52 to O56. -/

namespace Sys2Proof.Machine

/-! ### The event of a step -/

/-- A step applies one event to the state without it: the next one scheduled, or a turn without an answer. -/
theorem step_event {s t : State} (h : step s = .next t) :
    ∃ e l, applyInput e (s.withInputs l) = .next t ∧
      (s.inputs = e :: l ∨ (s.inputs = [] ∧ e = .turn none)) := by
  obtain ⟨e, u, happly, ⟨hnil, he, rfl⟩ | ⟨l, hi, rfl⟩⟩ := step_next h
  · exact ⟨e, u.inputs, happly, .inr ⟨hnil, he⟩⟩
  · exact ⟨e, l, happly, .inl hi⟩

/-- An event that is no turn was scheduled. -/
theorem scheduled_of_not_turn {s : State} {e : Input} {l : List Input}
    (h : s.inputs = e :: l ∨ (s.inputs = [] ∧ e = .turn none)) (he : e ≠ .turn none) :
    s.inputs = e :: l :=
  h.resolve_right fun hnone => he hnone.2

/-! ### PHASE and the result registers -/

/-- PHASE stays, goes to IDLE, or moves one place along IDLE, TX, RXHDR, RXBODY (R27). -/
def PhaseStep (p q : Phase) : Prop :=
  q = p ∨ q = .idle ∨ (p = .idle ∧ q = .tx) ∨ (p = .tx ∧ q = .rxhdr) ∨ (p = .rxhdr ∧ q = .rxbody)

/-- The result registers of `t` are those of `s`, and DONE has not been set. -/
structure KeepsOutcome (s t : State) : Prop where
  status : t.status = s.status
  info : t.info = s.info
  result : t.result = s.result
  rlen : t.rlen = s.rlen
  done_low : s.done = false → t.done = false

theorem KeepsOutcome.refl (s : State) : KeepsOutcome s s := ⟨rfl, rfl, rfl, rfl, id⟩

/-- A step of an operation in flight ends it, or keeps the outcome and moves PHASE along (R121 to R124). -/
theorem exec_busy_ends_or_keeps {i : Instr} {s t : State} (hp : s.phase ≠ .idle)
    (h : exec i s = .next t) :
    (t.phase = .idle ∧ t.done = true) ∨ (KeepsOutcome s t ∧ PhaseStep s.phase t.phase) := by
  rcases exec_busy_next i hp h with rfl | ⟨htx, rfl⟩ | ⟨k, -, rfl⟩ | ⟨l, hhdr, -, rfl⟩ |
    ⟨n, e, -, -, rfl⟩ | ⟨n, p, e, -, -, -, rfl⟩ | ⟨-, -, rfl⟩ | ⟨n, p, r, v, -, -, -, -, rfl⟩
  · exact .inr ⟨.refl _, .inl rfl⟩
  · exact .inr ⟨⟨rfl, rfl, rfl, rfl, id⟩, .inr (.inr (.inr (.inl ⟨htx, rfl⟩)))⟩
  · exact .inl ⟨rfl, rfl⟩
  · exact .inr ⟨⟨rfl, rfl, rfl, rfl, id⟩, .inr (.inr (.inr (.inr ⟨hhdr, rfl⟩)))⟩
  · exact .inl ⟨rfl, rfl⟩
  · exact .inl ⟨rfl, rfl⟩
  · exact .inl ⟨rfl, rfl⟩
  · exact .inl ⟨rfl, rfl⟩

/-- The kinds of events, by what they do to the outcome of operations. -/
inductive EventKind (e : Input) (s t : State) : Prop where
  /-- The outcome stays. -/
  | keeps (outcome : KeepsOutcome s t) (phase : PhaseStep s.phase t.phase)
  /-- A descriptor is accepted and refused at once (R79, R81, R120). -/
  | refused (d : Descriptor) (err : Error) (event : e = commandWrite d) (low : s.rst = false)
      (idle : s.phase = .idle) (encoding : err.code ∈ [0x11, 0x12, 0x13, 0x14])
      (next : t = s.refusedAtAccept d err.code)
  /-- A descriptor is accepted and its operation launched (R120). -/
  | launched (d : Descriptor) (frame : List Byte) (event : e = commandWrite d) (low : s.rst = false)
      (idle : s.phase = .idle) (next : t = (s.beginOp d).launch (opField d) frame)
  /-- A turn ends the operation in flight (R124, R160). -/
  | ended (x : Option Answer) (event : e = .turn x) (low : s.rst = false) (busy : s.phase ≠ .idle)
      (idle : t.phase = .idle) (done : t.done = true)
  /-- `rst` rises (R180). -/
  | reset (n : Nat) (event : e = .resetOn n) (next : t = s.assertReset n)

theorem encodingError_code {e : Error} (he : e ∈ [Error.encRange, .encSize, .encIllegalArg]) :
    e.code ∈ [0x11, 0x12, 0x13, 0x14] := by
  revert e
  decide

/-- The accept step refuses the descriptor with an encoding error or launches it. -/
theorem eventKind_accept {e : Input} {s : State} {i : Instr} (he : e = commandWrite (descriptor i))
    (hr : s.rst = false) (hp : s.phase = .idle) :
    EventKind e s (accept (descriptor i) (requestOf i s) s) := by
  rcases requestOf_cases i s with ⟨err, herr, hq⟩ | ⟨body, -, -, hq⟩ <;> rw [hq]
  · exact .refused _ err he hr hp (encodingError_code herr) rfl
  · exact .launched _ _ he hr hp rfl

theorem eventKind_hostWriteBytes (e : Input) (s : State) (a : Nat) (bs : List Byte) :
    EventKind e s (hostWriteBytes a bs s) := by
  obtain ⟨m, d, c, hframe, hdone⟩ := hostWriteBytes_frame a bs s
  rw [hframe]
  exact .keeps ⟨rfl, rfl, rfl, rfl, hdone⟩ (.inl rfl)

theorem eventKind_of_applyInput {e : Input} {s t : State} (h : applyInput e s = .next t) :
    EventKind e s t := by
  rcases applyInput_cases h with ⟨a, n, bs, k, -, -, rfl⟩ | ⟨a, bs, -, -, rfl⟩ | ⟨a, bs, -, -, rfl⟩ |
    ⟨d, -, -, -, rfl⟩ | ⟨d, i, he, hr, hp, rfl, rfl⟩ | ⟨d, he, hr, hp, -, rfl⟩ | ⟨x, -, -, rfl⟩ |
    ⟨x, i, he, hr, hp, -, hx⟩ | ⟨bs, -, rfl⟩ | ⟨n, -, rfl⟩ | ⟨n, he, rfl⟩ | ⟨-, rfl⟩
  case inl => exact .keeps ⟨rfl, rfl, rfl, rfl, id⟩ (.inl rfl)
  · exact .keeps (.refl _) (.inl rfl)
  · exact eventKind_hostWriteBytes _ _ _ _
  · exact .keeps ⟨rfl, rfl, rfl, rfl, id⟩ (.inl rfl)
  · exact eventKind_accept he hr hp
  · exact .refused d .encIllegalOp he hr hp (by decide) rfl
  · exact .keeps (.refl _) (.inl rfl)
  · rcases exec_busy_ends_or_keeps (s := s.offer x) hp hx with ⟨hidle, hdone⟩ | ⟨hkeeps, hphase⟩
    · exact .ended x he hr hp hidle hdone
    · exact .keeps ⟨hkeeps.status, hkeeps.info, hkeeps.result, hkeeps.rlen, hkeeps.done_low⟩ hphase
  · exact .keeps ⟨rfl, rfl, rfl, rfl, id⟩ (.inl rfl)
  · exact .keeps ⟨rfl, rfl, rfl, rfl, id⟩ (.inl rfl)
  · exact .reset n he rfl
  · exact .keeps ⟨rfl, rfl, rfl, rfl, id⟩ (.inl rfl)

/-- Settles O52: every kind of event moves PHASE forward or to IDLE, if at all. -/
theorem phaseOnlyAdvances : Obligations.PhaseOnlyAdvances := by
  intro s t h
  obtain ⟨e, l, happly, -⟩ := step_event h
  cases eventKind_of_applyInput happly with
  | keeps _ hphase => exact hphase
  | refused d err _ _ _ _ hnext => exact .inr (.inl (by rw [hnext]; rfl))
  | launched d frame _ _ hidle hnext => exact .inr (.inr (.inl ⟨hidle, by rw [hnext]; rfl⟩))
  | ended x _ _ _ hidle _ => exact .inr (.inl hidle)
  | reset n _ hnext => exact .inr (.inl (by rw [hnext]; rfl))

theorem commandWrite_ne_turn (d : Descriptor) (x : Option Answer) : commandWrite d ≠ .turn x := by
  rw [commandWrite]
  exact Input.noConfusion

/-- A turn is the next event of the schedule, or the schedule is empty. -/
theorem turn_of_event {s : State} {e : Input} {l : List Input} {x : Option Answer} (he : e = .turn x)
    (h : s.inputs = e :: l ∨ (s.inputs = [] ∧ e = .turn none)) :
    s.inputs = [] ∨ ∃ x rest, s.inputs = .turn x :: rest := by
  rcases h with hi | ⟨hnil, -⟩
  · exact .inr ⟨x, l, by rw [hi, he]⟩
  · exact .inl hnil

/-- Settles O53: one clause of the statement for each kind of event. -/
theorem resultRegistersWrittenOnlyAtEnds : Obligations.ResultRegistersWrittenOnlyAtEnds := by
  intro s t h
  obtain ⟨e, l, happly, hevent⟩ := step_event h
  cases eventKind_of_applyInput happly with
  | keeps houtcome _ =>
    exact .inl ⟨houtcome.status, houtcome.info, houtcome.result, houtcome.rlen⟩
  | refused d err he hr hidle hcode hnext =>
    have hi := scheduled_of_not_turn hevent (by rw [he]; exact commandWrite_ne_turn d none)
    subst hnext he
    exact .inr (.inl ⟨⟨d, l, hi⟩, hr, hidle, rfl, rfl, rfl, .inr ⟨rfl, rfl, hcode⟩⟩)
  | launched d frame he hr hidle hnext =>
    have hi := scheduled_of_not_turn hevent (by rw [he]; exact commandWrite_ne_turn d none)
    subst hnext he
    exact .inr (.inl ⟨⟨d, l, hi⟩, hr, hidle, rfl, rfl, rfl, .inl ⟨rfl, rfl⟩⟩)
  | ended x he hr hbusy hidle hdone =>
    exact .inr (.inr (.inl ⟨turn_of_event he hevent, hr, hbusy, hidle, hdone⟩))
  | reset n he hnext =>
    have hi := scheduled_of_not_turn hevent (by rw [he]; exact Input.noConfusion)
    subst hnext he
    exact .inr (.inr (.inr ⟨⟨n, l, hi⟩, rfl, rfl, rfl, rfl⟩))

/-- Settles O54: of the kinds of events only a refusal at accept and the end of an operation set DONE. -/
theorem irqRisesOnlyAtCompletion : Obligations.IrqRisesOnlyAtCompletion := by
  intro s t h hlow hhigh
  obtain ⟨e, l, happly, hevent⟩ := step_event h
  cases eventKind_of_applyInput happly with
  | keeps houtcome _ =>
    have hdone : t.done = false := houtcome.done_low hlow
    rw [State.irq, hdone] at hhigh
    cases hhigh
  | refused d err he hr hidle hcode hnext =>
    have hi := scheduled_of_not_turn hevent (by rw [he]; exact commandWrite_ne_turn d none)
    subst hnext he
    exact ⟨hr, rfl, .inr ⟨hidle, hcode, d, l, hi, rfl⟩⟩
  | launched d frame he hr hidle hnext =>
    rw [hnext] at hhigh
    cases hhigh
  | ended x he hr hbusy hidle hdone => exact ⟨hr, hidle, .inl ⟨turn_of_event he hevent, hbusy⟩⟩
  | reset n he hnext =>
    rw [hnext] at hhigh
    cases hhigh

/-! ### The streams -/

/-- A turn leaves the state, or runs one step of the operation in flight with the answer on offer. -/
theorem applyInput_turn_cases {x : Option Answer} {s t : State} (h : applyInput (.turn x) s = .next t) :
    t = s ∨ ∃ i, s.phase ≠ .idle ∧ exec i (s.offer x) = .next t := by
  cases hr : s.rst with
  | true =>
    rw [applyInput_turn_reset hr] at h
    cases h
    exact .inl rfl
  | false =>
    have hturn : applyInput (.turn x) s = sequencerTurn x s := if_neg (by rw [hr]; decide)
    rw [hturn] at h
    rcases sequencerTurn_cases x s with ⟨-, hx⟩ | ⟨-, -, hx⟩ | ⟨i, hp, -, -, hx⟩ <;> rw [hx] at h
    · cases h
      exact .inl rfl
    · cases h
    · exact .inr ⟨i, hp, h⟩

/-- No host access reaches the link (R52). -/
theorem applyInput_host_streams {acc : Access} {s t : State} (h : applyInput (.host acc) s = .next t) :
    t.rxStream = s.rxStream ∧ t.txStream = s.txStream := by
  rcases applyInput_cases h with ⟨a, n, bs, k, -, -, rfl⟩ | ⟨a, bs, -, -, rfl⟩ | ⟨a, bs, -, -, rfl⟩ |
    ⟨d, -, -, -, rfl⟩ | ⟨d, i, -, -, -, -, rfl⟩ | ⟨d, -, -, -, -, rfl⟩ | ⟨x, he, -⟩ | ⟨x, i, he, -⟩ |
    ⟨bs, he, -⟩ | ⟨n, he, -⟩ | ⟨n, he, -⟩ | ⟨he, -⟩
  case inl => exact ⟨rfl, rfl⟩
  · exact ⟨rfl, rfl⟩
  · obtain ⟨m, d, c, hframe, -⟩ := hostWriteBytes_frame a.toNat bs s
    rw [hframe]
    exact ⟨rfl, rfl⟩
  · exact ⟨rfl, rfl⟩
  · rcases accept_cases d (requestOf i s) s with ⟨r, -, hacc⟩ | ⟨f, -, hacc⟩ <;> rw [hacc] <;>
      exact ⟨rfl, rfl⟩
  · exact ⟨rfl, rfl⟩
  all_goals cases he

/-- A step of an operation sends in TX only, and reads at most 255 bytes off the head of the RX stream
elsewhere. -/
theorem exec_busy_streams {i : Instr} {s t : State} (hp : s.phase ≠ .idle) (h : exec i s = .next t) :
    (s.phase = .tx → t.rxStream = s.rxStream) ∧ (s.phase ≠ .tx → t.txStream = s.txStream) ∧
      ∃ n ≤ 255, t.rxStream = s.rxStream.drop n := by
  have body_not_tx : s.phase = .rxbody → s.phase ≠ .tx := fun hbody => by rw [hbody]; decide
  have hdr_not_tx : s.phase = .rxhdr → s.phase ≠ .tx := fun hhdr => by rw [hhdr]; decide
  rcases exec_busy_next i hp h with rfl | ⟨htx, rfl⟩ | ⟨k, htx, rfl⟩ | ⟨l, hhdr, -, rfl⟩ |
    ⟨n, e, hrx, hn, rfl⟩ | ⟨n, p, e, hbody, hn, -, rfl⟩ | ⟨hhdr, -, rfl⟩ | ⟨n, p, r, v, hbody, hn, -, -, rfl⟩
  · exact ⟨fun _ => rfl, fun _ => rfl, 0, by omega, rfl⟩
  · exact ⟨fun _ => rfl, fun hne => absurd htx hne, 0, by omega, rfl⟩
  · exact ⟨fun _ => rfl, fun hne => absurd htx hne, 0, by omega, rfl⟩
  · exact ⟨fun htx => absurd htx (hdr_not_tx hhdr), fun _ => rfl, 3, by omega, rfl⟩
  · exact ⟨fun htx => absurd htx hrx, fun _ => rfl, n, hn, rfl⟩
  · exact ⟨fun htx => absurd htx (body_not_tx hbody), fun _ => rfl, n, hn, rfl⟩
  · exact ⟨fun htx => absurd htx (hdr_not_tx hhdr), fun _ => rfl, 3, by omega, rfl⟩
  · exact ⟨fun htx => absurd htx (body_not_tx hbody), fun _ => rfl, n, hn, rfl⟩

theorem applyInput_turn_streams {x : Option Answer} {s t : State}
    (h : applyInput (.turn x) s = .next t) :
    (s.phase = .idle ∨ s.phase = .tx → t.rxStream = s.rxStream) ∧
      (s.phase ≠ .tx → t.txStream = s.txStream) ∧ ∃ n ≤ 255, t.rxStream = s.rxStream.drop n := by
  rcases applyInput_turn_cases h with rfl | ⟨i, hp, hx⟩
  · exact ⟨fun _ => rfl, fun _ => rfl, 0, by omega, rfl⟩
  · obtain ⟨hrx, htx, hdrop⟩ := exec_busy_streams (s := s.offer x) hp hx
    exact ⟨fun hphase => hrx (hphase.resolve_left hp), htx, hdrop⟩

/-- A turn without an answer makes no call (R189). -/
theorem applyInput_turn_none_streams {s t : State} (h : applyInput (.turn none) s = .next t) :
    t.rxStream = s.rxStream ∧ t.txStream = s.txStream := by
  rcases applyInput_turn_cases h with rfl | ⟨i, hp, hx⟩
  · exact ⟨rfl, rfl⟩
  · rcases exec_unanswered i (s := s.offer none) hp rfl hx with rfl | ⟨-, -, rfl⟩ <;> exact ⟨rfl, rfl⟩

/-- Settles O55: one clause per event. -/
theorem residueStaysInStream : Obligations.ResidueStaysInStream := by
  intro s t h
  refine ⟨fun acc rest hi => ?_, fun bytes rest hi => ?_, fun n rest hi => ?_, fun n rest hi => ?_,
    fun rest hi => ?_, fun hi => ?_, fun x rest hi => ?_⟩
  · rw [step_cons hi] at h
    exact applyInput_host_streams (s := s.withInputs rest) h
  · rw [step_cons hi] at h
    cases h
    exact ⟨rfl, rfl⟩
  · rw [step_cons hi] at h
    cases h
    exact ⟨rfl, rfl⟩
  · rw [step_cons hi] at h
    cases h
    exact ⟨rfl, fun htx => if_neg htx⟩
  · rw [step_cons hi] at h
    cases h
    exact ⟨rfl, rfl⟩
  · obtain ⟨e, l, happly, hevent⟩ := step_event h
    have he : e = .turn none := by
      rcases hi with hnil | ⟨rest, hi⟩ <;> rcases hevent with hcons | ⟨-, he⟩
      · rw [hnil] at hcons; cases hcons
      · exact he
      · rw [hi] at hcons
        exact (List.cons.inj hcons).1.symm
      · exact he
    rw [he] at happly
    exact applyInput_turn_none_streams (s := s.withInputs l) happly
  · rw [step_cons hi] at h
    exact applyInput_turn_streams (s := s.withInputs rest) h

/-! ### PBUF (R29) -/

/-- No step of an operation in flight writes PBUF: the one store it makes is into RBUF. -/
theorem exec_busy_pbuf {i : Instr} {s t : State} (hp : s.phase ≠ .idle) (h : exec i s = .next t) {j : Nat}
    (hj : j < 256) : t.byteAt .pbuf j = s.byteAt .pbuf j := by
  rcases exec_busy_next i hp h with rfl | ⟨-, rfl⟩ | ⟨k, -, rfl⟩ | ⟨l, -, -, rfl⟩ | ⟨n, e, -, -, rfl⟩ |
    ⟨n, p, e, -, -, -, rfl⟩ | ⟨-, -, rfl⟩ | ⟨n, p, r, v, -, -, -, -, rfl⟩
  · rfl
  · rfl
  · rfl
  · rfl
  · rfl
  · exact State.byteAt_pbuf_store_rbuf 0 j p s hj
  · rfl
  · exact State.byteAt_pbuf_store_rbuf 0 j p s hj

/-- Settles O56: among the events left, only the turn of a busy block stores anything. -/
theorem hardwareNeverWritesPbuf : Obligations.HardwareNeverWritesPbuf := by
  intro s t h hnot j hj
  obtain ⟨e, l, happly, hevent⟩ := step_event h
  have no_write : ∀ a bs, e ≠ .host (.write a bs) := by
    rintro a bs rfl
    exact (hnot a bs l).1 (scheduled_of_not_turn hevent Input.noConfusion)
  have no_reset : ∀ n, e ≠ .resetOn n := by
    rintro n rfl
    exact (hnot 0 [] l).2 n (scheduled_of_not_turn hevent Input.noConfusion)
  cases e with
  | host acc =>
    cases acc with
    | read a n =>
      have hi := scheduled_of_not_turn hevent Input.noConfusion
      have hframe := (hostReadsHaveNoSideEffect s t a n l hi h).1
      rw [hframe]
      rfl
    | write a bs => exact absurd rfl (no_write a bs)
  | turn x =>
    rcases applyInput_turn_cases happly with rfl | ⟨i, hp, hx⟩
    · rfl
    · exact exec_busy_pbuf (s := (s.withInputs l).offer x) hp hx hj
  | device bs =>
    cases happly
    rfl
  | drain n =>
    cases happly
    rfl
  | resetOn n => exact absurd rfl (no_reset n)
  | resetOff =>
    cases happly
    rfl

end Sys2Proof.Machine
end

section
/-! PROOFS. Whole exchanges, one operation from its command write to its end (R120 to R127): the operation in
flight, the bound on its turns, and the exchanges of READ and WRITE that meet no error; with them O57, O58 and
O59. -/

namespace Sys2Proof.Machine

/-! ### The operation in flight -/

/-- Out of reset, the latches hold operation `i` (R28). -/
structure Serving (i : Instr) (s : State) : Prop where
  low : s.rst = false
  opl : s.opl = opCode i
  cmd : s.cmd = descriptor i

theorem Serving.inFlight {i : Instr} {s : State} (h : Serving i s) : s.inFlight = .ok i := by
  rw [State.inFlight, h.opl, h.cmd, ← opField_descriptor]
  exact decodeWord_descriptor i

/-- An accept that launches a frame latches its operation (R120). -/
theorem serving_launch {i : Instr} {s : State} (hr : s.rst = false) (frame : List Byte) :
    Serving i ((s.beginOp (descriptor i)).launch (opField (descriptor i)) frame) :=
  ⟨hr, opField_descriptor i, rfl⟩

/-- A turn runs the operation the latches hold, with the answer on offer. -/
theorem Serving.step_turn {i : Instr} {s : State} {x : Option Answer} {l : List Input}
    (h : Serving i s) (hp : s.phase ≠ .idle) (hi : s.inputs = .turn x :: l) :
    step s = exec i ((s.withInputs l).offer x) :=
  Machine.step_turn h.low hp hi h.inFlight

/-- A turn of an idle block only takes the event off the schedule (R27). -/
theorem step_turn_idle {s : State} {x : Option Answer} {l : List Input} (hr : s.rst = false)
    (hp : s.phase = .idle) (hi : s.inputs = .turn x :: l) : step s = .next (s.withInputs l) := by
  have hidle : (s.withInputs l).phase = .idle := hp
  have hlow : (s.withInputs l).rst = false := hr
  rw [step_cons hi, applyInput, hlow, sequencerTurn, hidle]
  rfl

/-- The schedule is no part of a request. -/
theorem requestOf_withInputs (i : Instr) (s : State) (l : List Input) :
    requestOf i (s.withInputs l) = requestOf i s := by
  cases i <;> rfl

/-- In IDLE the command write of an operation is its accept step (R120). -/
theorem step_accept {i : Instr} {s : State} {l : List Input} (hr : s.rst = false) (hp : s.phase = .idle)
    (hi : s.inputs = commandWrite (descriptor i) :: l) :
    step s = .next (accept (descriptor i) (requestOf i s) (s.withInputs l)) := by
  have hidle : (s.withInputs l).phase = .idle := hp
  have hbytes : decode (littleEndian (descriptor i)) = .ok i := decodeInvertsEncode i
  rw [step_commandWrite hr hi, issueCommand_idle hidle hbytes, exec_idle i hidle,
    requestOf_withInputs]

/-! ### A call is answered once -/

theorem txStep_answer (s : State) : (txStep s).answer = none := by
  rcases txStep_cases s with ⟨ha, hs⟩ | ⟨k, -, hs⟩ | ⟨k, -, hs⟩ <;> rw [hs]
  · exact ha
  · rfl
  · rfl

theorem rxHeaderStep_answer (s : State) : (rxHeaderStep s).answer = none := by
  rcases rxHeaderStep_cases s with ⟨ha, hs⟩ | ⟨k, -, hs⟩ | ⟨k, e, -, -, hs⟩ | ⟨k, l, -, -, hs⟩ <;> rw [hs]
  · exact ha
  · rfl
  · rfl
  · rfl

theorem rxAckStep_answer (s : State) : (rxAckStep s).answer = none := by
  rcases rxAckStep_cases s with ⟨ha, hs⟩ | ⟨k, -, hs⟩ | ⟨k, e, -, -, hs⟩ | ⟨k, -, -, hs⟩ <;> rw [hs]
  · exact ha
  · rfl
  · rfl
  · rfl

theorem rxBodyStep_answer (i : Instr) (s : State) : (rxBodyStep (decodeOf i) s).answer = none := by
  rcases rxBodyStep_cases (decodeOf i) s with ⟨-, hs⟩ | ⟨-, ha, hs⟩ | ⟨k, -, -, hs⟩ | ⟨k, e, -, -, -, hs⟩ |
    ⟨k, p, e, -, -, -, -, hs⟩ | ⟨k, p, t, -, -, -, hdec, hs⟩ <;> rw [hs]
  · rfl
  · exact ha
  · rfl
  · rfl
  · rfl
  · rcases decodeOf_cases i p ((s.consume (min (s.byteAt .hdr 2).toNat k)).storePayload p) with
      ⟨r, v, hok, -⟩ | ⟨e, -, v, herr⟩
    · rw [hok] at hdec
      cases hdec
      rfl
    · rw [herr] at hdec
      cases hdec

/-- No answer is left on offer after a step of an operation in flight. -/
theorem exec_busy_answer {i : Instr} {s t : State} (hp : s.phase ≠ .idle) (h : exec i s = .next t) :
    t.answer = none := by
  rcases exec_busy_cases i s hp with ⟨-, hx⟩ | ⟨-, -, hx⟩ | ⟨-, -, hx⟩ | ⟨-, -, hx⟩ | ⟨-, -, hx⟩ <;>
    rw [hx] at h <;> cases h
  · exact txStep_answer s
  · exact rxHeaderStep_answer s
  · exact rxAckStep_answer s
  · exact rxBodyStep_answer i s

/-! ### The bound on the turns of an operation (R127) -/

/-- How many answered turns the operation in flight takes at most. -/
def turnsLeft : Phase → Nat
  | .idle => 0
  | .tx => 3
  | .rxhdr => 2
  | .rxbody => 1

theorem turnsLeft_le (p : Phase) : turnsLeft p ≤ 3 := by cases p <;> decide

theorem idle_of_turnsLeft {p : Phase} (h : turnsLeft p = 0) : p = .idle := by
  cases p with
  | idle => rfl
  | tx | rxhdr | rxbody => cases h

/-- Out of reset, the descriptor `d` has been accepted, and its operation is in flight or has completed
(R124). -/
structure Served (d : Descriptor) (s : State) : Prop where
  low : s.rst = false
  cmd : s.cmd = d
  ended : s.phase = .idle → s.done = true ∧ s.status ∈ legalStatus
  serving : s.phase ≠ .idle → ∃ i, Serving i s ∧ (s.phase = .rxbody → isReadType i = true)

section
variable {d : Descriptor} {s t : State}

/-- An operation that has completed is served. -/
theorem served_of_idle (hr : s.rst = false) (hc : s.cmd = d) (hp : s.phase = .idle) (hd : s.done = true)
    (hs : s.status ∈ legalStatus) : Served d s :=
  ⟨hr, hc, fun _ => ⟨hd, hs⟩, fun hbusy => absurd hp hbusy⟩

/-- An operation that goes on is served, in RXBODY if it is read-type. -/
theorem served_of_busy {i : Instr} (h : Serving i s) (hc : descriptor i = d) (hp : s.phase ≠ .idle)
    (hbody : s.phase = .rxbody → isReadType i = true) : Served d s :=
  ⟨h.low, h.cmd.trans hc, fun hidle => absurd hidle hp, fun _ => ⟨i, h, hbody⟩⟩

theorem Served.of_offer (h : Served d s) (l : List Input) (x : Option Answer) :
    Served d ((s.withInputs l).offer x) where
  low := h.low
  cmd := h.cmd
  ended := h.ended
  serving hbusy := by
    obtain ⟨i, hserving, hread⟩ := h.serving hbusy
    exact ⟨i, ⟨hserving.low, hserving.opl, hserving.cmd⟩, hread⟩

/-- One step of the operation in flight leaves it served, and uses up one of its turns unless it waits. -/
theorem Served.exec_busy {i : Instr} (h : Served d s) (hp : s.phase ≠ .idle) (hserving : Serving i s)
    (hx : exec i s = .next t) :
    t = s ∨ (Served d t ∧ t.inputs = s.inputs ∧ turnsLeft t.phase < turnsLeft s.phase) := by
  have hpos : 0 < turnsLeft s.phase := Nat.pos_of_ne_zero fun hzero => hp (idle_of_turnsLeft hzero)
  have hd : descriptor i = d := hserving.cmd.symm.trans h.cmd
  rcases exec_busy_next i hp hx with rfl | ⟨htx, rfl⟩ | ⟨k, -, rfl⟩ | ⟨l, hhdr, hread, rfl⟩ |
    ⟨n, e, -, -, rfl⟩ | ⟨n, p, e, -, -, -, rfl⟩ | ⟨-, -, rfl⟩ | ⟨n, p, r, v, -, -, -, -, rfl⟩
  · exact .inl rfl
  · have hgoes : Serving i (s.sendBytes s.txFrame).awaitHeader := ⟨hserving.low, hserving.opl, hserving.cmd⟩
    refine .inr ⟨served_of_busy hgoes hd Phase.noConfusion Phase.noConfusion, rfl, ?_⟩
    rw [htx]
    exact Nat.lt_succ_self 2
  · exact .inr ⟨served_of_idle h.low h.cmd rfl rfl (Error.code_legal .xportWriteFail).1, rfl, hpos⟩
  · have hgoes : Serving i ((s.consume 3).latchHeader [hdrResp, 0, l]) :=
      ⟨hserving.low, hserving.opl, hserving.cmd⟩
    refine .inr ⟨served_of_busy hgoes hd Phase.noConfusion (fun _ => hread), rfl, ?_⟩
    rw [hhdr]
    exact Nat.lt_succ_self 1
  · exact .inr ⟨served_of_idle h.low h.cmd rfl rfl e.err.code_legal.1, rfl, hpos⟩
  · exact .inr ⟨served_of_idle h.low h.cmd rfl rfl e.err.code_legal.1, rfl, hpos⟩
  · exact .inr ⟨served_of_idle h.low h.cmd rfl rfl legalStatus_zero, rfl, hpos⟩
  · exact .inr ⟨served_of_idle h.low h.cmd rfl rfl legalStatus_zero, rfl, hpos⟩

/-- A turn leaves a descriptor served; one that brings an answer uses up one of the turns left. -/
theorem Served.turn {x : Option Answer} {l : List Input} (h : Served d s) (hi : s.inputs = .turn x :: l) :
    ∃ t, step s = .next t ∧ Served d t ∧ t.inputs = l ∧
      (x ≠ none → turnsLeft t.phase ≤ turnsLeft s.phase - 1) := by
  by_cases hp : s.phase = .idle
  · obtain ⟨hdone, hstatus⟩ := h.ended hp
    refine ⟨_, step_turn_idle h.low hp hi, served_of_idle h.low h.cmd hp hdone hstatus, rfl, fun _ => ?_⟩
    rw [State.withInputs_phase, hp]
    decide
  · obtain ⟨i, hserving, hread⟩ := h.serving hp
    have hu := h.of_offer l x
    have hpu : ((s.withInputs l).offer x).phase ≠ .idle := hp
    obtain ⟨t, hx⟩ := exec_busy_answers (i := i) hpu hread
    refine ⟨t, (hserving.step_turn hp hi).trans hx, ?_⟩
    rcases hu.exec_busy hpu ⟨hserving.low, hserving.opl, hserving.cmd⟩ hx with rfl | ⟨hserved, hinputs, hless⟩
    · exact ⟨hu, rfl, fun hanswered => absurd (exec_busy_answer hpu hx) hanswered⟩
    · exact ⟨hserved, hinputs, fun _ => Nat.le_sub_one_of_lt hless⟩

/-- In IDLE every command write is served (R21, R81). -/
theorem served_of_commandWrite {l : List Input} (hr : s.rst = false) (hp : s.phase = .idle)
    (hi : s.inputs = commandWrite d :: l) : ∃ t, step s = .next t ∧ Served d t ∧ t.inputs = l := by
  cases hop : operationCode (opField d) with
  | false =>
    have hreserved := (operationCode_eq_false_iff _).mp hop
    refine ⟨_, reservedDescriptorCompletesAtOnce s d l hr hp hi hreserved, ?_, rfl⟩
    exact served_of_idle hr rfl rfl rfl (Error.code_legal .encIllegalOp).1
  | true =>
    obtain ⟨i, hdec⟩ := decodeFields_of_operation hop (lenField d) (argField d)
    obtain rfl : descriptor i = d := descriptor_of_decodeWord hdec
    rw [step_accept hr hp hi]
    rcases accept_cases (descriptor i) (requestOf i s) (s.withInputs l) with ⟨r, -, hacc⟩ | ⟨f, -, hacc⟩ <;>
      rw [hacc]
    · exact ⟨_, rfl, served_of_idle hr rfl rfl rfl r.err.code_legal.1, rfl⟩
    · have hgoes := serving_launch (i := i) (s := s.withInputs l) hr f
      exact ⟨_, rfl, served_of_busy hgoes rfl Phase.noConfusion Phase.noConfusion, rfl⟩

end

/-- Settles O57: three answered turns use up the turns left. -/
theorem completesWithinThreeTurns : Obligations.CompletesWithinThreeTurns := by
  intro s d a1 a2 a3 rest hr hp hi
  obtain ⟨s1, h1, hserved1, hi1⟩ := served_of_commandWrite hr hp hi
  obtain ⟨s2, h2, hserved2, hi2, hless2⟩ := hserved1.turn hi1
  obtain ⟨s3, h3, hserved3, hi3, hless3⟩ := hserved2.turn hi2
  obtain ⟨s4, h4, hserved4, hi4, hless4⟩ := hserved3.turn hi3
  have hfirst := turnsLeft_le s1.phase
  have hsecond := hless2 (by simp)
  have hthird := hless3 (by simp)
  have hfourth := hless4 (by simp)
  have hidle : s4.phase = .idle := idle_of_turnsLeft (by omega)
  obtain ⟨hdone, hstatus⟩ := hserved4.ended hidle
  refine ⟨s4, ?_, hidle, hdone, hserved4.cmd, hi4, hstatus⟩
  rw [run_succ 3 h1, run_succ 2 h2, run_succ 1 h3, run_succ 0 h4, run_zero]

/-! ### A response received whole (R73) -/

/-- A block that has received the whole of a valid response around `p`: the header latched, the payload
stored, the operation completed. -/
def State.receive (p : List Byte) (s : State) : State :=
  ((((s.consume 3).latchHeader (responseHeader p)).consume (p.length + 1)).storePayload p).completeOk

section
variable (p : List Byte) (s : State)

@[simp] theorem State.receive_done : (s.receive p).done = true := rfl

@[simp] theorem State.receive_phase : (s.receive p).phase = .idle := rfl

@[simp] theorem State.receive_cmdOvr : (s.receive p).cmdOvr = s.cmdOvr := by
  simp only [State.receive, State.completeOk_cmdOvr, State.storePayload_cmdOvr, State.consume_cmdOvr,
    State.latchHeader_cmdOvr]

@[simp] theorem State.receive_inputs : (s.receive p).inputs = s.inputs := by
  simp only [State.receive, State.completeOk_inputs, State.storePayload_inputs, State.consume_inputs,
    State.latchHeader_inputs]

@[simp] theorem State.receive_txStream : (s.receive p).txStream = s.txStream := by
  simp only [State.receive, State.completeOk_txStream, State.storePayload_txStream, State.consume_txStream,
    State.latchHeader_txStream]

@[simp] theorem State.receive_rxStream :
    (s.receive p).rxStream = (s.rxStream.drop 3).drop (p.length + 1) := by
  simp only [State.receive, State.completeOk_rxStream, State.storePayload_rxStream, State.consume_rxStream,
    State.latchHeader_rxStream]

/-- The host sees the payload, and INFO and RESULT as they were. -/
theorem State.receive_outcome (hlen : p.length ≤ 254) :
    (s.receive p).outcome = ⟨0, s.info, s.result, p⟩ := by
  rw [State.outcome, OpOutcome.mk.injEq]
  refine ⟨rfl, ?_, ?_, State.payload_storePayload p _ (by omega)⟩
  · simp only [State.receive, State.completeOk_info, State.storePayload_info, State.consume_info,
      State.latchHeader_info]
  · simp only [State.receive, State.completeOk_result, State.storePayload_result, State.consume_result,
      State.latchHeader_result]

theorem State.receive_rlen (hlen : p.length ≤ 254) : (s.receive p).rlen.toNat = p.length := by
  rw [State.receive, State.completeOk_rlen, rlen_storePayload hlen]

theorem State.byteAt_pbuf_receive {j : Nat} (hj : j < 256) :
    (s.receive p).byteAt .pbuf j = s.byteAt .pbuf j :=
  State.byteAt_pbuf_store_rbuf 0 j p _ hj

end

/-- The schedule takes no part in latching a header. -/
theorem withInputs_latchHeader_consume (s : State) (l l' : List Input) (n : Nat) (r : List Byte) :
    (((s.withInputs l').consume n).latchHeader r).withInputs l = ((s.withInputs l).consume n).latchHeader r :=
  rfl

/-! ### The steps of an exchange that meets no error -/

section
variable {i : Instr} {s : State} {k : Nat} {l : List Input} {rest : List Byte}

/-- The request goes out whole (R121). -/
theorem Serving.step_sent (h : Serving i s) (hp : s.phase = .tx) (hi : s.inputs = .turn (some (.ok k)) :: l) :
    step s = .next ((s.withInputs l).sendBytes s.txFrame).awaitHeader := by
  have hpu : ((s.withInputs l).offer (some (.ok k))).phase = .tx := hp
  rw [h.step_turn (by rw [hp]; decide) hi, exec_tx i hpu, txStep_ok rfl]
  rfl

/-- The acknowledgement completes a write-type operation (R122). -/
theorem Serving.step_acknowledged (h : Serving i s) (hwrite : isReadType i = false) (hp : s.phase = .rxhdr)
    (hi : s.inputs = .turn (some (.ok k)) :: l) (hk : 3 ≤ k)
    (hrx : s.rxStream = [0x70, 0x00, 0x70] ++ rest) :
    step s = .next ((s.withInputs l).consume 3).completeOk := by
  have hpu : ((s.withInputs l).offer (some (.ok k))).phase = .rxhdr := hp
  have hrxu : ((s.withInputs l).offer (some (.ok k))).rxStream = [0x70, 0x00, 0x70] ++ rest := hrx
  rw [h.step_turn (by rw [hp]; decide) hi, exec_rxhdr_write i hwrite hpu, rxAckStep_acknowledged rfl hk hrxu]
  rfl

/-- The header of a valid response moves a read-type operation to RXBODY (R122). -/
theorem Serving.step_latched {c : Byte} (h : Serving i s) (hread : isReadType i = true)
    (hp : s.phase = .rxhdr) (hi : s.inputs = .turn (some (.ok k)) :: l) (hk : 3 ≤ k)
    (hrx : s.rxStream = [0x70, 0x00, c] ++ rest) :
    step s = .next (((s.withInputs l).consume 3).latchHeader [0x70, 0x00, c]) := by
  have hpu : ((s.withInputs l).offer (some (.ok k))).phase = .rxhdr := hp
  have hrxu : ((s.withInputs l).offer (some (.ok k))).rxStream = [0x70, 0x00, c] ++ rest := hrx
  rw [h.step_turn (by rw [hp]; decide) hi, exec_rxhdr_read i hread hpu, rxHeaderStep_accepted rfl hk hrxu]
  rfl

/-- The valid segment completes a READ with its payload (R123, R125). -/
theorem Serving.step_received {len : BitVec 12} {func : BitVec 16} {p : List Byte}
    (h : Serving (.read len func) s) (hp : s.phase = .rxbody) (hi : s.inputs = .turn (some (.ok k)) :: l)
    (hl : (s.byteAt .hdr 2).toNat = p.length + 1) (hk : p.length + 1 ≤ k)
    (hrx : s.rxStream = p ++ [checksum (s.header ++ p)] ++ rest) :
    step s = .next (((s.withInputs l).consume (p.length + 1)).storePayload p).completeOk := by
  have hpu : ((s.withInputs l).offer (some (.ok k))).phase = .rxbody := hp
  rw [h.step_turn (by rw [hp]; decide) hi, exec_rxbody_read _ rfl hpu,
    rxBodyStep_segment (s := (s.withInputs l).offer (some (.ok k))) hl rfl hk hrx]
  rfl

/-- The two turns of a write-type operation whose frame is acknowledged. -/
theorem Serving.run_acknowledged {k1 k2 : Nat} (h : Serving i s) (hwrite : isReadType i = false)
    (hp : s.phase = .tx) (hi : s.inputs = .turn (some (.ok k1)) :: .turn (some (.ok k2)) :: l) (hk : 3 ≤ k2)
    (hrx : s.rxStream = [0x70, 0x00, 0x70] ++ rest) :
    Sys2Proof.core.run 2 s =
      .next ((((s.withInputs (.turn (some (.ok k2)) :: l)).sendBytes s.txFrame).awaitHeader.withInputs
        l).consume 3).completeOk := by
  have hsent := h.step_sent hp hi
  have h' : Serving i ((s.withInputs (.turn (some (.ok k2)) :: l)).sendBytes s.txFrame).awaitHeader :=
    ⟨h.low, h.opl, h.cmd⟩
  rw [run_succ 1 hsent, run_succ 0 (h'.step_acknowledged hwrite rfl rfl hk hrx), run_zero]

/-- The two receive turns of a READ whose response is valid (R122, R123). -/
theorem Serving.run_response {len : BitVec 12} {func : BitVec 16} {p : List Byte} {k1 k2 : Nat}
    (h : Serving (.read len func) s) (hp : s.phase = .rxhdr) (hlen : p.length ≤ 254)
    (hi : s.inputs = .turn (some (.ok k1)) :: .turn (some (.ok k2)) :: l) (hk1 : 3 ≤ k1)
    (hk2 : p.length + 1 ≤ k2) (hrx : s.rxStream = responseHeader p ++ (responseSegment p ++ rest)) :
    Sys2Proof.core.run 2 s = .next ((s.withInputs l).receive p) := by
  have hlatched : step s = .next
      (((s.withInputs (.turn (some (.ok k2)) :: l)).consume 3).latchHeader (responseHeader p)) :=
    h.step_latched rfl hp hi hk1 hrx
  have hserving : Serving (.read len func)
      (((s.withInputs (.turn (some (.ok k2)) :: l)).consume 3).latchHeader (responseHeader p)) :=
    ⟨h.low, h.opl, h.cmd⟩
  have hheader := State.header_latchHeader (responseHeader p)
    ((s.withInputs (.turn (some (.ok k2)) :: l)).consume 3) rfl
  have hdeclared := responseHeader_length_toNat hlen
  have hsegment : s.rxStream.drop 3 = p ++ [checksum (responseHeader p ++ p)] ++ rest := drop_three hrx
  rw [← hheader] at hdeclared
  have hreceived := hserving.step_received rfl rfl hdeclared hk2 (by rw [hheader]; exact hsegment)
  rw [withInputs_latchHeader_consume] at hreceived
  rw [run_succ 1 hlatched, run_succ 0 hreceived, run_zero, State.receive]

/-- The three turns of a READ whose response is valid: the request goes out, and the response is received. -/
theorem Serving.run_received {len : BitVec 12} {func : BitVec 16} {p : List Byte} {k1 k2 k3 : Nat}
    (h : Serving (.read len func) s) (hp : s.phase = .tx) (hlen : p.length ≤ 254)
    (hi : s.inputs = .turn (some (.ok k1)) :: .turn (some (.ok k2)) :: .turn (some (.ok k3)) :: l)
    (hk2 : 3 ≤ k2) (hk3 : p.length + 1 ≤ k3)
    (hrx : s.rxStream = responseHeader p ++ (responseSegment p ++ rest)) :
    Sys2Proof.core.run 3 s =
      .next (((s.withInputs l).sendBytes s.txFrame).awaitHeader.receive p) := by
  have hsent := h.step_sent hp hi
  have h' : Serving (.read len func) ((s.withInputs (.turn (some (.ok k2)) :: .turn (some (.ok k3)) ::
      l)).sendBytes s.txFrame).awaitHeader := ⟨h.low, h.opl, h.cmd⟩
  rw [run_succ 2 hsent, h'.run_response rfl hlen rfl hk2 hk3 hrx]
  rfl

end

/-- The accept step of an operation whose request is `frame`, in one step of the machine. -/
theorem step_launched {i : Instr} {s : State} {l : List Input} {frame : List Byte} (hr : s.rst = false)
    (hp : s.phase = .idle) (hi : s.inputs = commandWrite (descriptor i) :: l)
    (hq : requestOf i s = .ok frame) :
    step s = .next (((s.withInputs l).beginOp (descriptor i)).launch (opField (descriptor i)) frame) := by
  rw [step_accept hr hp hi, hq, accept]

theorem functionByte_toNat (f : Byte) : (f.setWidth 16 : BitVec 16).toNat ≤ 255 := by
  rw [BitVec.toNat_setWidth]
  omega

theorem functionByte_setWidth (f : Byte) : (f.setWidth 16 : BitVec 16).setWidth 8 = f := by
  apply BitVec.eq_of_toNat_eq
  rw [BitVec.toNat_setWidth, BitVec.toNat_setWidth]
  omega

/-- Settles O59: accept, TX, and the acknowledgement. -/
theorem writeExchangeEndToEnd : Obligations.WriteExchangeEndToEnd := by
  intro s f len after k1 k2 rest hr hp hlen hk hrx hi
  have hreq := requestOf_write_ok s (functionByte_toNat f) hlen
  rw [functionByte_setWidth, writeFrame_eq_writeRequest] at hreq
  have hshort : (writeRequest f (s.load .pbuf len.toNat)).length < 512 := by
    rw [← writeFrame_eq_writeRequest, writeFrame_length, State.load_length]
    omega
  have haccept := step_launched (i := .write len (f.setWidth 16)) hr hp hi hreq
  have hserving := serving_launch (i := .write len (f.setWidth 16))
    (s := s.withInputs (.turn (some (.ok k1)) :: .turn (some (.ok k2)) :: rest)) hr
    (writeRequest f (s.load .pbuf len.toNat))
  have hrun := hserving.run_acknowledged rfl rfl rfl hk hrx
  rw [State.txFrame_launch _ _ _ hshort] at hrun
  exact ⟨_, (run_succ 2 haccept).trans hrun, rfl, rfl, rfl, rfl, drop_three hrx, rfl, rfl⟩

/-- Settles O58: accept, TX, the header, and the segment. -/
theorem readExchangeEndToEnd : Obligations.ReadExchangeEndToEnd := by
  intro s f p after k1 k2 k3 rest hr hp hlen hk2 hk3 hrx hi
  have hreq : requestOf (.read 0 (f.setWidth 16)) s = .ok (readRequest f) := by
    have h := requestRead_ok (functionByte_toNat f)
    rwa [functionByte_setWidth, readFrame_eq] at h
  have haccept := step_launched (i := .read 0 (f.setWidth 16)) hr hp hi hreq
  have hserving := serving_launch (i := .read 0 (f.setWidth 16))
    (s := s.withInputs (.turn (some (.ok k1)) :: .turn (some (.ok k2)) :: .turn (some (.ok k3)) :: rest)) hr
    (readRequest f)
  have hresponse : s.rxStream = responseHeader p ++ (responseSegment p ++ after) :=
    hrx.trans (List.append_assoc _ _ _)
  have hrun := hserving.run_received rfl hlen rfl hk2 hk3 hresponse
  rw [State.txFrame_launch _ _ _ (show (readRequest f).length < 512 from by simp [readRequest])] at hrun
  have hafter : (s.rxStream.drop 3).drop (p.length + 1) = after :=
    drop_segment (s := s.consume 3) (c := checksum (responseHeader p ++ p)) (drop_three hresponse)
  refine ⟨_, (run_succ 3 haccept).trans hrun, State.receive_outcome p _ hlen, State.receive_rlen p _ hlen,
    State.receive_done p _, State.receive_phase p _, State.receive_txStream p _,
    (State.receive_rxStream p _).trans hafter, State.receive_inputs p _,
    State.receive_cmdOvr p _, fun j hj => State.byteAt_pbuf_receive p _ hj⟩

end Sys2Proof.Machine
end

section
/-! PROOFS. No protocol state survives an operation (R33): two blocks that serve the same descriptor on equal
links agree on all that the host and the device can see, and every step keeps the agreement; with it O60. -/

namespace Sys2Proof.Machine

/-- Two blocks that agree on what the host and the device can see of an operation: its outcome, its phase,
what they have sent since their TX streams were `b1` and `b2`, what they will send, and the header they will
judge the segment by. -/
structure Agree (b1 b2 : List Byte) (s1 s2 : State) : Prop where
  outcome : s1.outcome = s2.outcome
  done : s1.done = s2.done
  phase : s1.phase = s2.phase
  rxStream : s1.rxStream = s2.rxStream
  frame : s1.phase = .tx → s1.txFrame = s2.txFrame
  header : s1.phase = .rxbody → s1.header = s2.header
  sent : ∃ sent, s1.txStream = b1 ++ sent ∧ s2.txStream = b2 ++ sent

/-! ### The updates keep the agreement -/

section
variable {b1 b2 : List Byte} {s1 s2 : State}

theorem Agree.withInputs (h : Agree b1 b2 s1 s2) (l : List Input) :
    Agree b1 b2 (s1.withInputs l) (s2.withInputs l) := { h with }

theorem Agree.offer (h : Agree b1 b2 s1 s2) (x : Option Answer) :
    Agree b1 b2 (s1.offer x) (s2.offer x) := { h with }

theorem Agree.consume (h : Agree b1 b2 s1 s2) (n : Nat) : Agree b1 b2 (s1.consume n) (s2.consume n) :=
  { h with rxStream := congrArg (List.drop n) h.rxStream }

theorem Agree.sendBytes (h : Agree b1 b2 s1 s2) (bs : List Byte) :
    Agree b1 b2 (s1.sendBytes bs) (s2.sendBytes bs) :=
  { h with
    sent := by
      obtain ⟨sent, h1, h2⟩ := h.sent
      exact ⟨sent ++ bs, by rw [State.sendBytes_txStream, h1, List.append_assoc],
        by rw [State.sendBytes_txStream, h2, List.append_assoc]⟩ }

theorem Agree.awaitHeader (h : Agree b1 b2 s1 s2) : Agree b1 b2 s1.awaitHeader s2.awaitHeader :=
  { h with phase := rfl, frame := Phase.noConfusion, header := Phase.noConfusion }

theorem Agree.enterError (h : Agree b1 b2 s1 s2) (r : Raise) :
    Agree b1 b2 (s1.enterError r) (s2.enterError r) :=
  { h with
    outcome := congrArg (fun o => { o with status := r.err.code, info := r.info }) h.outcome
    done := rfl, phase := rfl, frame := Phase.noConfusion, header := Phase.noConfusion }

theorem Agree.completeOk (h : Agree b1 b2 s1 s2) : Agree b1 b2 s1.completeOk s2.completeOk :=
  { h with
    outcome := congrArg (fun o => { o with status := 0 }) h.outcome
    done := rfl, phase := rfl, frame := Phase.noConfusion, header := Phase.noConfusion }

theorem Agree.setResultInfo (h : Agree b1 b2 s1 s2) (r v : Byte) :
    Agree b1 b2 (s1.setResultInfo r v) (s2.setResultInfo r v) :=
  { h with outcome := congrArg (fun o => { o with result := r, info := v }) h.outcome }

theorem outcome_storePayload (s : State) {p : List Byte} (hl : p.length ≤ 254) :
    (s.storePayload p).outcome = { s.outcome with payload := p } := by
  rw [State.outcome, State.payload_storePayload p s (by omega)]
  rfl

theorem Agree.storePayload (h : Agree b1 b2 s1 s2) {p : List Byte} (hl : p.length ≤ 254) :
    Agree b1 b2 (s1.storePayload p) (s2.storePayload p) :=
  { h with outcome := by rw [outcome_storePayload s1 hl, outcome_storePayload s2 hl, h.outcome] }

theorem Agree.latchHeader (h : Agree b1 b2 s1 s2) {r : List Byte} (hl : r.length = 3) :
    Agree b1 b2 (s1.latchHeader r) (s2.latchHeader r) :=
  { h with
    phase := rfl, frame := Phase.noConfusion
    header := fun _ => by rw [State.header_latchHeader r s1 hl, State.header_latchHeader r s2 hl] }

end

/-! ### The steps keep the agreement -/

section
variable {b1 b2 : List Byte} {s1 s2 : State}

theorem Agree.txStep (h : Agree b1 b2 s1 s2) (ha : s1.answer = s2.answer) (hp : s1.phase = .tx) :
    Agree b1 b2 (txStep s1) (txStep s2) := by
  cases hx : s2.answer with
  | none => rwa [txStep_unanswered (ha.trans hx), txStep_unanswered hx]
  | some a =>
    cases a with
    | ok k =>
      rw [txStep_ok (ha.trans hx), txStep_ok hx, h.frame hp]
      exact (h.sendBytes _).awaitHeader
    | fail k =>
      rw [txStep_fail (ha.trans hx), txStep_fail hx, h.frame hp]
      exact (h.sendBytes _).enterError _

theorem rxHeaderStep_unanswered {s : State} (ha : s.answer = none) : rxHeaderStep s = s := by
  rw [rxHeaderStep, xportRead, ha]

theorem rxAckStep_unanswered {s : State} (ha : s.answer = none) : rxAckStep s = s := by
  rw [rxAckStep, xportRead, ha]

theorem Agree.rxHeaderStep (h : Agree b1 b2 s1 s2) (ha : s1.answer = s2.answer) :
    Agree b1 b2 (rxHeaderStep s1) (rxHeaderStep s2) := by
  cases hx : s2.answer with
  | none => rwa [rxHeaderStep_unanswered (ha.trans hx), rxHeaderStep_unanswered hx]
  | some a =>
    cases a with
    | fail k =>
      rw [rxHeaderStep_fail (ha.trans hx), rxHeaderStep_fail hx]
      exact (h.consume _).enterError ⟨.xportReadFail, 0⟩
    | ok k =>
      cases hparse : parseReadHdr (s2.rxStream.take (min 3 k)) with
      | error r =>
        rw [rxHeaderStep_error (ha.trans hx) (by rw [h.rxStream]; exact hparse), rxHeaderStep_error hx hparse]
        exact (h.consume _).enterError r
      | ok c =>
        rw [rxHeaderStep_ok (ha.trans hx) (by rw [h.rxStream]; exact hparse), rxHeaderStep_ok hx hparse,
          h.rxStream]
        exact (h.consume _).latchHeader (by rw [(parseReadHdr_ok_iff _ _).mp hparse]; rfl)

theorem Agree.rxAckStep (h : Agree b1 b2 s1 s2) (ha : s1.answer = s2.answer) :
    Agree b1 b2 (rxAckStep s1) (rxAckStep s2) := by
  cases hx : s2.answer with
  | none => rwa [rxAckStep_unanswered (ha.trans hx), rxAckStep_unanswered hx]
  | some a =>
    cases a with
    | fail k =>
      rw [rxAckStep_fail (ha.trans hx), rxAckStep_fail hx]
      exact (h.consume _).enterError ⟨.xportReadFail, 0⟩
    | ok k =>
      cases hparse : parseAck (s2.rxStream.take (min 3 k)) with
      | error r =>
        rw [rxAckStep_error (ha.trans hx) (by rw [h.rxStream]; exact hparse), rxAckStep_error hx hparse]
        exact (h.consume _).enterError r
      | ok u =>
        rw [rxAckStep_ok (ha.trans hx) (by rw [h.rxStream]; exact hparse), rxAckStep_ok hx hparse]
        exact (h.consume _).completeOk

end

/-! ### The RXBODY step -/

section
variable {s : State} {k : Nat} {p : List Byte} {dec : List Byte → State → Except Raise State}

theorem rxBodyStep_unanswered (h0 : s.byteAt .hdr 2 ≠ 0) (ha : s.answer = none) : rxBodyStep dec s = s := by
  rw [rxBodyStep, if_neg h0, xportRead, ha]

/-- A payload that passed the parser is stored, and DECODE says how the operation ends (R123). -/
theorem rxBodyStep_parsed (h0 : s.byteAt .hdr 2 ≠ 0) (ha : s.answer = some (.ok k))
    (hparse : parseReadBody s.header (s.rxStream.take (min (s.byteAt .hdr 2).toNat k)) = .ok p) :
    (∀ {t}, dec p ((s.consume (min (s.byteAt .hdr 2).toNat k)).storePayload p) = .ok t →
      rxBodyStep dec s = t.completeOk) ∧
    (∀ {r}, dec p ((s.consume (min (s.byteAt .hdr 2).toNat k)).storePayload p) = .error r →
      rxBodyStep dec s =
        ((s.consume (min (s.byteAt .hdr 2).toNat k)).storePayload p).enterError r) := by
  have hheader : (s.consume (min (s.byteAt .hdr 2).toNat k)).header = s.header := rfl
  refine ⟨fun hdec => ?_, fun hdec => ?_⟩ <;>
    simp only [rxBodyStep, if_neg h0, xportRead, ha, hheader, hparse, hdec]

/-- The length byte bounds the payload (R107). -/
theorem payload_length_le {r : List Byte} (h0 : s.byteAt .hdr 2 ≠ 0)
    (hparse : parseReadBody s.header r = .ok p) : p.length ≤ 254 := by
  have hdeclared : s.header.getD 2 0 = s.byteAt .hdr 2 := rfl
  have hpos : (s.byteAt .hdr 2).toNat ≠ 0 := fun hzero => h0 (BitVec.eq_of_toNat_eq hzero)
  have hlen := ((parseReadBody_ok_iff s.header r p (by rw [hdeclared]; omega)).mp hparse).1
  have hbyte : (s.byteAt .hdr 2).toNat < 256 := (s.byteAt .hdr 2).isLt
  rw [hdeclared] at hlen
  omega

/-- DECODE judges the payload alone: it raises the same error in every state, or writes RESULT and INFO alike
in two states that agree on them. -/
theorem decodeOf_uniform (i : Instr) (p : List Byte) :
    (∃ r, ∀ s, decodeOf i p s = .error r) ∨
    ∀ s1 s2 : State, s1.result = s2.result → s1.info = s2.info →
      ∃ r v, decodeOf i p s1 = .ok (s1.setResultInfo r v) ∧ decodeOf i p s2 = .ok (s2.setResultInfo r v) := by
  have keeps : ∀ s1 s2 : State, s1.result = s2.result → s1.info = s2.info → ∃ r v,
      (Except.ok s1 : Except Raise State) = .ok (s1.setResultInfo r v) ∧
      (Except.ok s2 : Except Raise State) = .ok (s2.setResultInfo r v) := fun s1 s2 hr hi =>
    ⟨s1.result, s1.info, rfl, by rw [hr, hi]; rfl⟩
  cases i with
  | getPower len arg =>
    cases hv : powerOf p with
    | error r => exact .inl ⟨r, fun s => by simp only [decodeOf, decodePower, hv]⟩
    | ok b =>
      refine .inr fun s1 s2 _ hi => ⟨b, s1.info, ?_, ?_⟩
      · simp only [decodeOf, decodePower, hv]
        rfl
      · simp only [decodeOf, decodePower, hv, hi]
        rfl
  | getInput len arg =>
    cases hv : inputOf Config.cfg p with
    | error r => exact .inl ⟨r, fun s => by simp only [decodeOf, decodeInput, hv]⟩
    | ok v => exact .inr fun s1 s2 _ _ => ⟨v.1, v.2, by simp only [decodeOf, decodeInput, hv],
        by simp only [decodeOf, decodeInput, hv]⟩
  | read | write | setPower | setPicture | setInput => exact .inr keeps

end

section
variable {b1 b2 : List Byte} {s1 s2 t1 t2 : State}

theorem Agree.rxBodyStep (h : Agree b1 b2 s1 s2) (ha : s1.answer = s2.answer) (hp : s1.phase = .rxbody)
    (i : Instr) : Agree b1 b2 (rxBodyStep (decodeOf i) s1) (rxBodyStep (decodeOf i) s2) := by
  have hheader := h.header hp
  have hlen : s1.byteAt .hdr 2 = s2.byteAt .hdr 2 := congrArg (fun r => r.getD 2 0) hheader
  by_cases h0 : s2.byteAt .hdr 2 = 0
  · rw [rxBodyStep_zero (hlen.trans h0), rxBodyStep_zero h0]
    exact (h.consume 0).enterError ⟨.frameLengthZero, 0⟩
  have h0' : s1.byteAt .hdr 2 ≠ 0 := by rwa [hlen]
  cases hx : s2.answer with
  | none => rwa [rxBodyStep_unanswered h0' (ha.trans hx), rxBodyStep_unanswered h0 hx]
  | some a =>
    cases a with
    | fail k =>
      rw [rxBodyStep_fail h0' (ha.trans hx), rxBodyStep_fail h0 hx, hlen]
      exact (h.consume _).enterError ⟨.xportReadFail, 0⟩
    | ok k =>
      have hsame : parseReadBody s1.header (s1.rxStream.take (min (s1.byteAt .hdr 2).toNat k)) =
          parseReadBody s2.header (s2.rxStream.take (min (s2.byteAt .hdr 2).toNat k)) := by
        rw [hheader, h.rxStream, hlen]
      cases hparse : parseReadBody s2.header (s2.rxStream.take (min (s2.byteAt .hdr 2).toNat k)) with
      | error r =>
        rw [rxBodyStep_error h0' (ha.trans hx) (hsame.trans hparse), rxBodyStep_error h0 hx hparse, hlen]
        exact (h.consume _).enterError r
      | ok p =>
        have hstored := (h.consume (min (s2.byteAt .hdr 2).toNat k)).storePayload (payload_length_le h0 hparse)
        have hends1 := rxBodyStep_parsed (dec := decodeOf i) h0' (ha.trans hx) (hsame.trans hparse)
        have hends2 := rxBodyStep_parsed (dec := decodeOf i) h0 hx hparse
        rw [hlen] at hends1
        rcases decodeOf_uniform i p with ⟨r, hdec⟩ | hdec
        · rw [hends1.2 (hdec _), hends2.2 (hdec _)]
          exact hstored.enterError r
        · obtain ⟨r, v, hdec1, hdec2⟩ := hdec _ _ (congrArg OpOutcome.result hstored.outcome)
            (congrArg OpOutcome.info hstored.outcome)
          rw [hends1.1 hdec1, hends2.1 hdec2]
          exact (hstored.setResultInfo r v).completeOk

/-- One step of the same operation with the same answer on offer keeps the agreement. -/
theorem Agree.exec {i : Instr} (h : Agree b1 b2 s1 s2) (ha : s1.answer = s2.answer) (hp : s1.phase ≠ .idle)
    (h1 : exec i s1 = .next t1) (h2 : exec i s2 = .next t2) : Agree b1 b2 t1 t2 := by
  rcases exec_busy_cases i s1 hp with ⟨hph, hx⟩ | ⟨hph, hr, hx⟩ | ⟨hph, hr, hx⟩ | ⟨hph, hr, hx⟩ | ⟨-, -, hx⟩ <;>
    rw [hx] at h1 <;> cases h1
  · rw [exec_tx i (h.phase.symm.trans hph)] at h2
    cases h2
    exact h.txStep ha hph
  · rw [exec_rxhdr_read i hr (h.phase.symm.trans hph)] at h2
    cases h2
    exact h.rxHeaderStep ha
  · rw [exec_rxhdr_write i hr (h.phase.symm.trans hph)] at h2
    cases h2
    exact h.rxAckStep ha
  · rw [exec_rxbody_read i hr (h.phase.symm.trans hph)] at h2
    cases h2
    exact h.rxBodyStep ha hph i

theorem descriptor_injective {i j : Instr} (h : descriptor i = descriptor j) : i = j := by
  have hdec := decodeWord_descriptor i
  rw [h, decodeWord_descriptor j] at hdec
  exact (Except.ok.inj hdec).symm

/-- The same turn of two blocks that serve one descriptor keeps their agreement. -/
theorem Agree.turn {d : Descriptor} {x : Option Answer} {l : List Input} (h : Agree b1 b2 s1 s2)
    (hs1 : Served d s1) (hs2 : Served d s2) (hi1 : s1.inputs = .turn x :: l)
    (hi2 : s2.inputs = .turn x :: l) (h1 : step s1 = .next t1) (h2 : step s2 = .next t2) :
    Agree b1 b2 t1 t2 := by
  by_cases hp : s1.phase = .idle
  · rw [step_turn_idle hs1.low hp hi1] at h1
    rw [step_turn_idle hs2.low (h.phase.symm.trans hp) hi2] at h2
    cases h1
    cases h2
    exact h.withInputs l
  · have hp2 : s2.phase ≠ .idle := by rwa [← h.phase]
    obtain ⟨i, hserving1, -⟩ := hs1.serving hp
    obtain ⟨j, hserving2, -⟩ := hs2.serving hp2
    obtain rfl : i = j := descriptor_injective
      ((hserving1.cmd.symm.trans hs1.cmd).trans (hs2.cmd.symm.trans hserving2.cmd))
    rw [hserving1.step_turn hp hi1] at h1
    rw [hserving2.step_turn hp2 hi2] at h2
    exact ((h.withInputs l).offer x).exec rfl hp h1 h2

end

/-! ### The accept step -/

section
variable {s1 s2 t1 t2 : State} {d : Descriptor}

/-- A request reads no more of the state than the first LEN bytes of PBUF (R126). -/
theorem requestOf_congr (i : Instr) (h : ∀ j < 256, j < (lenField (descriptor i)).toNat →
    s1.byteAt .pbuf j = s2.byteAt .pbuf j) : requestOf i s1 = requestOf i s2 := by
  cases i with
  | write len func =>
    have hfield : lenField (descriptor (.write len func)) = len := lenField_pack _ _ _
    rw [hfield] at h
    by_cases hrange : 255 < func.toNat
    · rw [requestOf_write_encRange s1 hrange, requestOf_write_encRange s2 hrange]
    · by_cases hsize : 254 < len.toNat
      · rw [requestOf_write_encSize s1 (by omega) hsize, requestOf_write_encSize s2 (by omega) hsize]
      · have hload : s1.load .pbuf len.toNat = s2.load .pbuf len.toNat :=
          List.map_congr_left fun j hj => h j (by rw [List.mem_range] at hj; omega) (List.mem_range.mp hj)
        rw [requestOf_write_ok s1 (by omega) (by omega), requestOf_write_ok s2 (by omega) (by omega), hload]
  | read | getPower | setPower | setPicture | getInput | setInput => rfl

/-- Whatever two blocks held before, an accept of one descriptor with one request leaves them in agreement. -/
theorem agree_accept (hrx : s1.rxStream = s2.rxStream) {q : Except Raise (List Byte)}
    (hframe : ∀ frame, q = .ok frame → frame.length < 512) :
    Agree s1.txStream s2.txStream (accept d q s1) (accept d q s2) := by
  have hsent : ∃ sent, s1.txStream = s1.txStream ++ sent ∧ s2.txStream = s2.txStream ++ sent :=
    ⟨[], (List.append_nil _).symm, (List.append_nil _).symm⟩
  cases q with
  | error r => exact ⟨rfl, rfl, rfl, hrx, Phase.noConfusion, Phase.noConfusion, hsent⟩
  | ok frame =>
    refine ⟨rfl, rfl, rfl, hrx, fun _ => ?_, Phase.noConfusion, hsent⟩
    rw [accept, accept, State.txFrame_launch _ _ _ (hframe frame rfl),
      State.txFrame_launch _ _ _ (hframe frame rfl)]

theorem request_length_lt (i : Instr) (s : State) :
    ∀ frame, requestOf i s = .ok frame → frame.length < 512 := by
  intro frame hq
  rcases requestOf_cases i s with ⟨e, -, herr⟩ | ⟨body, -, hle, hok⟩
  · rw [herr] at hq
    cases hq
  · rw [hok] at hq
    cases hq
    rw [sealFrame_length]
    omega

/-- The command write of one descriptor leaves two idle blocks in agreement. -/
theorem agree_of_commandWrite {l : List Input} (hr1 : s1.rst = false) (hr2 : s2.rst = false)
    (hp1 : s1.phase = .idle) (hp2 : s2.phase = .idle)
    (hpbuf : ∀ j < 256, j < (lenField d).toNat → s1.byteAt .pbuf j = s2.byteAt .pbuf j)
    (hrx : s1.rxStream = s2.rxStream) (hi1 : s1.inputs = commandWrite d :: l)
    (hi2 : s2.inputs = commandWrite d :: l) (h1 : step s1 = .next t1) (h2 : step s2 = .next t2) :
    Agree s1.txStream s2.txStream t1 t2 := by
  cases hop : operationCode (opField d) with
  | false =>
    have hreserved := (operationCode_eq_false_iff _).mp hop
    rw [reservedDescriptorCompletesAtOnce s1 d l hr1 hp1 hi1 hreserved] at h1
    rw [reservedDescriptorCompletesAtOnce s2 d l hr2 hp2 hi2 hreserved] at h2
    cases h1
    cases h2
    exact agree_accept (s1 := s1.withInputs l) (s2 := s2.withInputs l) (q := .error ⟨.encIllegalOp, 0⟩) hrx
      fun _ herr => by cases herr
  | true =>
    obtain ⟨i, hdec⟩ := decodeFields_of_operation hop (lenField d) (argField d)
    obtain rfl : descriptor i = d := descriptor_of_decodeWord hdec
    rw [step_accept hr1 hp1 hi1, requestOf_congr i hpbuf] at h1
    rw [step_accept hr2 hp2 hi2] at h2
    cases h1
    cases h2
    exact agree_accept (s1 := s1.withInputs l) (s2 := s2.withInputs l) hrx (request_length_lt i s2)

end

/-- Settles O60: the accept brings the two blocks into agreement, and each of the three turns keeps it. -/
theorem noProtocolStateSurvives : Obligations.NoProtocolStateSurvives := by
  intro s1 s2 d a1 a2 a3 hr1 hr2 hp1 hp2 hpbuf hrx hi1 hinputs
  have hi2 := hinputs.trans hi1
  obtain ⟨u1, hu1, hs1, hui1⟩ := served_of_commandWrite hr1 hp1 hi1
  obtain ⟨u2, hu2, hs2, hui2⟩ := served_of_commandWrite hr2 hp2 hi2
  have hu := agree_of_commandWrite hr1 hr2 hp1 hp2 hpbuf hrx hi1 hi2 hu1 hu2
  obtain ⟨v1, hv1, hs1', hvi1, -⟩ := hs1.turn hui1
  obtain ⟨v2, hv2, hs2', hvi2, -⟩ := hs2.turn hui2
  have hv := hu.turn hs1 hs2 hui1 hui2 hv1 hv2
  obtain ⟨w1, hw1, hs1'', hwi1, -⟩ := hs1'.turn hvi1
  obtain ⟨w2, hw2, hs2'', hwi2, -⟩ := hs2'.turn hvi2
  have hw := hv.turn hs1' hs2' hvi1 hvi2 hw1 hw2
  obtain ⟨t1, ht1, -⟩ := hs1''.turn hwi1
  obtain ⟨t2, ht2, -⟩ := hs2''.turn hwi2
  have ht := hw.turn hs1'' hs2'' hwi1 hwi2 ht1 ht2
  obtain ⟨sent, hsent1, hsent2⟩ := ht.sent
  refine ⟨t1, t2, sent, ?_, ?_, ht.phase, ht.done, ht.outcome, ht.rxStream, hsent1, hsent2⟩
  · rw [run_succ 3 hu1, run_succ 2 hv1, run_succ 1 hw1, run_succ 0 ht1, run_zero]
  · rw [run_succ 3 hu2, run_succ 2 hv2, run_succ 1 hw2, run_succ 0 ht2, run_zero]

end Sys2Proof.Machine
end
